-- ==== Sys2Proof/Word.lean ====
section
/-! DEFINITION. The word types of the core: bytes, 16-bit words and the fields of an instruction word (spec R10, R57). -/

namespace Sys2Proof

/-- `u8` (R10): a register V0 to VF, a timer, a byte of memory, the NN field. -/
abbrev Byte := BitVec 8

/-- `u16` (R10): I, the pc, a stack entry, an instruction word. -/
abbrev Word := BitVec 16

/-- The 4-bit field that indexes V0 to VF (R17, R57). -/
abbrev Reg := BitVec 4

/-- The 4-bit immediate N (R57). -/
abbrev Nibble := BitVec 4

/-- The 12-bit address immediate NNN (R57). -/
abbrev Addr := BitVec 12

/-- The register that is also the flag, V[15] (R18, R22). -/
abbrev flagReg : Reg := 0xF#4

end Sys2Proof
end

