-- ==== Sys2Proof/Syntax.lean ====
section
/-! DEFINITION. The instructions: one constructor for each of the 35 rows of spec/opcode_table.json, in the table's
order. Operands carry the widths of R57, so no operand is out of the range R58 gives it. -/

namespace Sys2Proof

/-- The 35 instructions (R65, R73). -/
inductive Instr where
  /-- `0000` HALT (R76). -/
  | halt
  /-- `00E0` CLS (R108). -/
  | cls
  /-- `00EE` RET (R77). -/
  | ret
  /-- `1NNN` JP NNN (R78). -/
  | jp (nnn : Addr)
  /-- `2NNN` CALL NNN (R79). -/
  | call (nnn : Addr)
  /-- `3XNN` SE VX, NN (R80). -/
  | seImm (x : Reg) (nn : Byte)
  /-- `4XNN` SNE VX, NN (R81). -/
  | sneImm (x : Reg) (nn : Byte)
  /-- `5XY0` SE VX, VY (R82). -/
  | seReg (x y : Reg)
  /-- `6XNN` LD VX, NN (R86). -/
  | ldImm (x : Reg) (nn : Byte)
  /-- `7XNN` ADD VX, NN (R87). -/
  | addImm (x : Reg) (nn : Byte)
  /-- `8XY0` LD VX, VY (R88). -/
  | ldReg (x y : Reg)
  /-- `8XY1` OR VX, VY (R89). -/
  | or (x y : Reg)
  /-- `8XY2` AND VX, VY (R90). -/
  | and (x y : Reg)
  /-- `8XY3` XOR VX, VY (R91). -/
  | xor (x y : Reg)
  /-- `8XY4` ADD VX, VY (R92). -/
  | addReg (x y : Reg)
  /-- `8XY5` SUB VX, VY (R93). -/
  | sub (x y : Reg)
  /-- `8XY6` SHR VX, VY (R94). -/
  | shr (x y : Reg)
  /-- `8XY7` SUBN VX, VY (R95). -/
  | subn (x y : Reg)
  /-- `8XYE` SHL VX, VY (R96). -/
  | shl (x y : Reg)
  /-- `9XY0` SNE VX, VY (R83). -/
  | sneReg (x y : Reg)
  /-- `ANNN` LD I, NNN (R101). -/
  | ldI (nnn : Addr)
  /-- `BNNN` JP V0, NNN (R84). -/
  | jpV0 (nnn : Addr)
  /-- `CXNN` RND VX, NN (R97). -/
  | rnd (x : Reg) (nn : Byte)
  /-- `DXYN` DRW VX, VY, N (R109). -/
  | drw (x y : Reg) (n : Nibble)
  /-- `EX9E` SKP VX (R112). -/
  | skp (x : Reg)
  /-- `EXA1` SKNP VX (R113). -/
  | sknp (x : Reg)
  /-- `FX07` LD VX, DT (R114). -/
  | ldVxDT (x : Reg)
  /-- `FX0A` LD VX, K (R115). -/
  | ldVxK (x : Reg)
  /-- `FX15` LD DT, VX (R116). -/
  | ldDTVx (x : Reg)
  /-- `FX18` LD ST, VX (R117). -/
  | ldSTVx (x : Reg)
  /-- `FX1E` ADD I, VX (R102). -/
  | addI (x : Reg)
  /-- `FX29` LD F, VX (R103). -/
  | ldF (x : Reg)
  /-- `FX33` LD B, VX (R104). -/
  | ldB (x : Reg)
  /-- `FX55` LD [I], VX (R105). -/
  | ldMemStore (x : Reg)
  /-- `FX65` LD VX, [I] (R106). -/
  | ldMemLoad (x : Reg)
  deriving DecidableEq, Repr

end Sys2Proof
end

