-- ==== Sys2Proof/Decode.lean ====
section
/-! DEFINITION. Decoding (spec R56 to R72): fields, the opcode map by top nibble and selector, total, refusing by
name; the decoder on bytes; the encoder (from the same patterns, R73); and the rows of spec/opcode_table.json. -/

namespace Sys2Proof

/-- Why a word is Undefined (R66 to R70), or why bytes hold no word. Every one of them is
`InstructionNotDefined` to the machine (R71). -/
inductive Undefined where
  /-- Group 0: a word 0x0001..0x0FFF other than 00E0 and 00EE (R66). -/
  | system
  /-- 5XYn with n ≠ 0 (R67, D8). -/
  | seReg
  /-- 8XYn with n = 8, 9, A, B, C, D or F (R68). -/
  | alu
  /-- 9XYn with n ≠ 0 (R67, D8). -/
  | sneReg
  /-- EX__ with a selector other than 9E and A1 (R69). -/
  | keys
  /-- FX__ with none of the nine selectors (R70). -/
  | misc
  /-- Fewer than the two bytes of a word (R56). -/
  | truncated
  deriving DecidableEq, Repr

/-- `w[15:12]`, the first dispatch key (R57). -/
def fieldOp (w : Word) : BitVec 4 := w.extractLsb' 12 4

/-- X = `w[11:8]` (R57). -/
def fieldX (w : Word) : Reg := w.extractLsb' 8 4

/-- Y = `w[7:4]` (R57). -/
def fieldY (w : Word) : Reg := w.extractLsb' 4 4

/-- N = `w[3:0]` (R57). -/
def fieldN (w : Word) : Nibble := w.extractLsb' 0 4

/-- NN = `w[7:0]` (R57). -/
def fieldNN (w : Word) : Byte := w.extractLsb' 0 8

/-- NNN = `w[11:0]` (R57). -/
def fieldNNN (w : Word) : Addr := w.extractLsb' 0 12

/-- Group 0 selects on the whole word (R66). -/
def decodeSystem (w : Word) : Except Undefined Instr :=
  match w with
  | 0x0000#16 => .ok .halt
  | 0x00E0#16 => .ok .cls
  | 0x00EE#16 => .ok .ret
  | _ => .error .system

/-- Group 8 selects on N (R68). -/
def decodeAlu (w : Word) : Except Undefined Instr :=
  match fieldN w with
  | 0x0#4 => .ok (.ldReg (fieldX w) (fieldY w))
  | 0x1#4 => .ok (.or (fieldX w) (fieldY w))
  | 0x2#4 => .ok (.and (fieldX w) (fieldY w))
  | 0x3#4 => .ok (.xor (fieldX w) (fieldY w))
  | 0x4#4 => .ok (.addReg (fieldX w) (fieldY w))
  | 0x5#4 => .ok (.sub (fieldX w) (fieldY w))
  | 0x6#4 => .ok (.shr (fieldX w) (fieldY w))
  | 0x7#4 => .ok (.subn (fieldX w) (fieldY w))
  | 0xE#4 => .ok (.shl (fieldX w) (fieldY w))
  | _ => .error .alu

/-- Group E selects on NN (R69). -/
def decodeKeys (w : Word) : Except Undefined Instr :=
  match fieldNN w with
  | 0x9E#8 => .ok (.skp (fieldX w))
  | 0xA1#8 => .ok (.sknp (fieldX w))
  | _ => .error .keys

/-- Group F selects on NN (R70). -/
def decodeMisc (w : Word) : Except Undefined Instr :=
  match fieldNN w with
  | 0x07#8 => .ok (.ldVxDT (fieldX w))
  | 0x0A#8 => .ok (.ldVxK (fieldX w))
  | 0x15#8 => .ok (.ldDTVx (fieldX w))
  | 0x18#8 => .ok (.ldSTVx (fieldX w))
  | 0x1E#8 => .ok (.addI (fieldX w))
  | 0x29#8 => .ok (.ldF (fieldX w))
  | 0x33#8 => .ok (.ldB (fieldX w))
  | 0x55#8 => .ok (.ldMemStore (fieldX w))
  | 0x65#8 => .ok (.ldMemLoad (fieldX w))
  | _ => .error .misc

/-- The opcode map (R64, R65): the top nibble, then the group's selector. It reads only the word.
DEDUCED: 5XYn and 9XYn with n ≠ 0 are Undefined by the spec's decision D8 (log entry 15). -/
def decode (w : Word) : Except Undefined Instr :=
  match fieldOp w with
  | 0x0#4 => decodeSystem w
  | 0x1#4 => .ok (.jp (fieldNNN w))
  | 0x2#4 => .ok (.call (fieldNNN w))
  | 0x3#4 => .ok (.seImm (fieldX w) (fieldNN w))
  | 0x4#4 => .ok (.sneImm (fieldX w) (fieldNN w))
  | 0x5#4 => if fieldN w = 0x0#4 then .ok (.seReg (fieldX w) (fieldY w)) else .error .seReg
  | 0x6#4 => .ok (.ldImm (fieldX w) (fieldNN w))
  | 0x7#4 => .ok (.addImm (fieldX w) (fieldNN w))
  | 0x8#4 => decodeAlu w
  | 0x9#4 => if fieldN w = 0x0#4 then .ok (.sneReg (fieldX w) (fieldY w)) else .error .sneReg
  | 0xA#4 => .ok (.ldI (fieldNNN w))
  | 0xB#4 => .ok (.jpV0 (fieldNNN w))
  | 0xC#4 => .ok (.rnd (fieldX w) (fieldNN w))
  | 0xD#4 => .ok (.drw (fieldX w) (fieldY w) (fieldN w))
  | 0xE#4 => decodeKeys w
  | _ => decodeMisc w

/-- A word from its two bytes, the byte at the lower address first: big-endian (R39). -/
def wordOfBytes (high low : Byte) : Word := high ++ low

/-- The two bytes of a word as memory holds them, big-endian (R39). -/
def bytesOfWord (w : Word) : List Byte := [w.extractLsb' 8 8, w.extractLsb' 0 8]

/-- The decoder on bytes: one instruction is two bytes (R56), and the rest is handed back. -/
def decodeBytes : List Byte → Except Undefined (Instr × List Byte)
  | high :: low :: rest =>
    match decode (wordOfBytes high low) with
    | .ok i => .ok (i, rest)
    | .error e => .error e
  | _ => .error .truncated

/-- The instruction whose bits are `w` as spec/opcode_table.json numbers them. An instruction is one 16-bit word
(R56), so the word is bits 15..0; bits from `nbits` up are 0. -/
def decodeTableWord (nbits w : Nat) : Option Instr :=
  match decodeBytes (bytesOfWord (BitVec.ofNat 16 (w % 2 ^ nbits))) with
  | .ok (i, _) => some i
  | .error _ => none

/-! ## The encoder -/

/-- Format `NNN`: op, NNN (R57). -/
def formatNNN (op : BitVec 4) (nnn : Addr) : Word := op ++ nnn

/-- Format `XNN`, and format `X` with its fixed selector as NN: op, X, NN (R57). -/
def formatXNN (op : BitVec 4) (x : Reg) (nn : Byte) : Word := op ++ x ++ nn

/-- Format `XYN`, and format `XY` with its fixed selector as N: op, X, Y, N (R57). -/
def formatXYN (op : BitVec 4) (x y : Reg) (n : Nibble) : Word := op ++ x ++ y ++ n

/-- The word of an instruction, from the patterns of R73. -/
def encode : Instr → Word
  | .halt => 0x0000#16
  | .cls => 0x00E0#16
  | .ret => 0x00EE#16
  | .jp a => formatNNN 0x1#4 a
  | .call a => formatNNN 0x2#4 a
  | .seImm x k => formatXNN 0x3#4 x k
  | .sneImm x k => formatXNN 0x4#4 x k
  | .seReg x y => formatXYN 0x5#4 x y 0x0#4
  | .ldImm x k => formatXNN 0x6#4 x k
  | .addImm x k => formatXNN 0x7#4 x k
  | .ldReg x y => formatXYN 0x8#4 x y 0x0#4
  | .or x y => formatXYN 0x8#4 x y 0x1#4
  | .and x y => formatXYN 0x8#4 x y 0x2#4
  | .xor x y => formatXYN 0x8#4 x y 0x3#4
  | .addReg x y => formatXYN 0x8#4 x y 0x4#4
  | .sub x y => formatXYN 0x8#4 x y 0x5#4
  | .shr x y => formatXYN 0x8#4 x y 0x6#4
  | .subn x y => formatXYN 0x8#4 x y 0x7#4
  | .shl x y => formatXYN 0x8#4 x y 0xE#4
  | .sneReg x y => formatXYN 0x9#4 x y 0x0#4
  | .ldI a => formatNNN 0xA#4 a
  | .jpV0 a => formatNNN 0xB#4 a
  | .rnd x k => formatXNN 0xC#4 x k
  | .drw x y n => formatXYN 0xD#4 x y n
  | .skp x => formatXNN 0xE#4 x 0x9E#8
  | .sknp x => formatXNN 0xE#4 x 0xA1#8
  | .ldVxDT x => formatXNN 0xF#4 x 0x07#8
  | .ldVxK x => formatXNN 0xF#4 x 0x0A#8
  | .ldDTVx x => formatXNN 0xF#4 x 0x15#8
  | .ldSTVx x => formatXNN 0xF#4 x 0x18#8
  | .addI x => formatXNN 0xF#4 x 0x1E#8
  | .ldF x => formatXNN 0xF#4 x 0x29#8
  | .ldB x => formatXNN 0xF#4 x 0x33#8
  | .ldMemStore x => formatXNN 0xF#4 x 0x55#8
  | .ldMemLoad x => formatXNN 0xF#4 x 0x65#8

/-! ## The rows of the opcode table -/

/-- A row of spec/opcode_table.json: its `match` and `mask`. -/
structure OpcodeRow where
  /-- The bits the row fixes. -/
  mask : Word
  /-- Their values. -/
  pattern : Word
  deriving DecidableEq, Repr

/-- A word selects a row where `(w & mask) = match` (30_encoding.md, opening). -/
def OpcodeRow.selects (r : OpcodeRow) (w : Word) : Bool := w &&& r.mask == r.pattern

/-- The row of each instruction, `mask` and `match` as spec/opcode_table.json gives them. -/
def Instr.row : Instr → OpcodeRow
  | .halt => ⟨0xFFFF, 0x0000⟩
  | .cls => ⟨0xFFFF, 0x00E0⟩
  | .ret => ⟨0xFFFF, 0x00EE⟩
  | .jp _ => ⟨0xF000, 0x1000⟩
  | .call _ => ⟨0xF000, 0x2000⟩
  | .seImm _ _ => ⟨0xF000, 0x3000⟩
  | .sneImm _ _ => ⟨0xF000, 0x4000⟩
  | .seReg _ _ => ⟨0xF00F, 0x5000⟩
  | .ldImm _ _ => ⟨0xF000, 0x6000⟩
  | .addImm _ _ => ⟨0xF000, 0x7000⟩
  | .ldReg _ _ => ⟨0xF00F, 0x8000⟩
  | .or _ _ => ⟨0xF00F, 0x8001⟩
  | .and _ _ => ⟨0xF00F, 0x8002⟩
  | .xor _ _ => ⟨0xF00F, 0x8003⟩
  | .addReg _ _ => ⟨0xF00F, 0x8004⟩
  | .sub _ _ => ⟨0xF00F, 0x8005⟩
  | .shr _ _ => ⟨0xF00F, 0x8006⟩
  | .subn _ _ => ⟨0xF00F, 0x8007⟩
  | .shl _ _ => ⟨0xF00F, 0x800E⟩
  | .sneReg _ _ => ⟨0xF00F, 0x9000⟩
  | .ldI _ => ⟨0xF000, 0xA000⟩
  | .jpV0 _ => ⟨0xF000, 0xB000⟩
  | .rnd _ _ => ⟨0xF000, 0xC000⟩
  | .drw _ _ _ => ⟨0xF000, 0xD000⟩
  | .skp _ => ⟨0xF0FF, 0xE09E⟩
  | .sknp _ => ⟨0xF0FF, 0xE0A1⟩
  | .ldVxDT _ => ⟨0xF0FF, 0xF007⟩
  | .ldVxK _ => ⟨0xF0FF, 0xF00A⟩
  | .ldDTVx _ => ⟨0xF0FF, 0xF015⟩
  | .ldSTVx _ => ⟨0xF0FF, 0xF018⟩
  | .addI _ => ⟨0xF0FF, 0xF01E⟩
  | .ldF _ => ⟨0xF0FF, 0xF029⟩
  | .ldB _ => ⟨0xF0FF, 0xF033⟩
  | .ldMemStore _ => ⟨0xF0FF, 0xF055⟩
  | .ldMemLoad _ => ⟨0xF0FF, 0xF065⟩

/-- One row for each of the 35 mnemonics, in the table's order. -/
def opcodeTable : List OpcodeRow :=
  ([.halt, .cls, .ret, .jp 0, .call 0, .seImm 0 0, .sneImm 0 0, .seReg 0 0, .ldImm 0 0, .addImm 0 0] ++
   [.ldReg 0 0, .or 0 0, .and 0 0, .xor 0 0, .addReg 0 0, .sub 0 0, .shr 0 0, .subn 0 0, .shl 0 0] ++
   [.sneReg 0 0, .ldI 0, .jpV0 0, .rnd 0 0, .drw 0 0 0, .skp 0, .sknp 0] ++
   [.ldVxDT 0, .ldVxK 0, .ldDTVx 0, .ldSTVx 0, .addI 0, .ldF 0, .ldB 0, .ldMemStore 0, .ldMemLoad 0]
   : List Instr).map Instr.row

end Sys2Proof
end

