-- ==== Sys2Proof/Config.lean ====
section
/-! DEFINITION. What an implementation fixes: the parameters of spec R8 (named constants, and the two parameters the
spec leaves to the implementer as a record of plain data), and the one free value, the random byte of R98. -/

namespace Sys2Proof

/-! ## The named constants of R8, in the order of its table -/

/-- MEM_SIZE (R8): addresses 0..4095. -/
abbrev Config.memSize : Nat := 4096

/-- NUM_V (R8, R17): V0..VF. -/
abbrev Config.numV : Nat := 16

/-- V_WIDTH in bits (R8, R17): the width of `Byte` (Config.register_widths). -/
abbrev Config.vWidth : Nat := 8

/-- I_WIDTH in bits (R8, R20): the width of `Word` (Config.register_widths). -/
abbrev Config.iWidth : Nat := 16

/-- PC_WIDTH in bits (R8, R21): the width of `Word` (Config.register_widths). -/
abbrev Config.pcWidth : Nat := 16

/-- INSN_BYTES (R8, R56): one big-endian word. -/
abbrev Config.insnBytes : Nat := 2

/-- FONT_BASE (R8, R25). -/
abbrev Config.fontBase : Nat := 0x100

/-- FONT_BYTES (R8): 16 glyphs of 5 bytes. -/
abbrev Config.fontBytes : Nat := 80

/-- PROGRAM_BASE (R8, R26): where load puts the image and where execution starts (R48). -/
abbrev Config.programBase : Nat := 0x200

/-- MAX_ROM (R8, R145): 3584 bytes. -/
abbrev Config.maxRom : Nat := memSize - programBase

/-- FB_W in pixels (R8, R33). -/
abbrev Config.fbW : Nat := 64

/-- FB_H in pixels (R8, R33). -/
abbrev Config.fbH : Nat := 32

/-- NUM_KEYS (R8, R34): keys 0x0..0xF. -/
abbrev Config.numKeys : Nat := 16

/-- TIMER_WIDTH in bits (R8, R31): the width of `Byte` (Config.register_widths). -/
abbrev Config.timerWidth : Nat := 8

/-- TIMER_HZ (R8): nominal, and no rule depends on it; a tick is a move of the host (R134, D21; log entry 16). -/
abbrev Config.timerHz : Nat := 60

/-- TRACE_DEPTH (R8, R35). -/
abbrev Config.traceDepth : Nat := 14

/-! ## The parameters of R8 that an implementation chooses -/

/-- The parameters an implementation chooses (R8): the font's bytes (R25, D15) and the depth of the call stack
(R28, D6). They are fixed for a machine. `State` carries them as plain data that no operation changes, so a statement
about every state is a statement about every choice of them. -/
structure Config where
  /-- FONT_TABLE: 16 glyphs of 5 bytes (R25). -/
  font : Vector Byte Config.fontBytes
  /-- STACK_DEPTH: `none` is unbounded, `some n` bounds the stack at `n ≥ 1` entries (R28). -/
  stackDepth : Option Nat
  deriving DecidableEq, Repr

/-- A finite STACK_DEPTH is at least 1 (R8). -/
def Config.WellFormed (c : Config) : Prop := ∀ n, c.stackDepth = some n → 1 ≤ n

/-- R25's default rows for the digits 0 to 7.
PRESUMED (the spec's own mark: general knowledge): see log entry 2. -/
def Config.fontLow : List Byte :=
  [0xF0, 0x90, 0x90, 0x90, 0xF0] ++ [0x20, 0x60, 0x20, 0x20, 0x70] ++
  [0xF0, 0x10, 0xF0, 0x80, 0xF0] ++ [0xF0, 0x10, 0xF0, 0x10, 0xF0] ++
  [0x90, 0x90, 0xF0, 0x10, 0x10] ++ [0xF0, 0x80, 0xF0, 0x10, 0xF0] ++
  [0xF0, 0x80, 0xF0, 0x90, 0xF0] ++ [0xF0, 0x10, 0x20, 0x40, 0x40]

/-- R25's default rows for the digits 8 to F.
PRESUMED (the spec's own mark: general knowledge): see log entry 2. -/
def Config.fontHigh : List Byte :=
  [0xF0, 0x90, 0xF0, 0x90, 0xF0] ++ [0xF0, 0x90, 0xF0, 0x10, 0xF0] ++
  [0xF0, 0x90, 0xF0, 0x90, 0x90] ++ [0xE0, 0x90, 0xE0, 0x90, 0xE0] ++
  [0xF0, 0x80, 0x80, 0x80, 0xF0] ++ [0xE0, 0x90, 0x90, 0x90, 0xE0] ++
  [0xF0, 0x80, 0xF0, 0x80, 0xF0] ++ [0xF0, 0x80, 0xF0, 0x80, 0x80]

/-- R25's default FONT_TABLE. -/
def Config.defaultFont : Vector Byte fontBytes := ⟨(fontLow ++ fontHigh).toArray, rfl⟩

/-- The parameters that `State.reset` takes: R25's default font and the unbounded stack, the source's own behaviour
(R28). DESIGN CHOICE: see log entries 2 and 3. -/
def Config.default : Config := { font := defaultFont, stackDepth := none }

/-- The random byte of R98, a free value: it has no body, so nothing is known of it. The argument numbers the draws,
so that two CXNN steps see bytes that no law relates. DESIGN CHOICE: see log entry 1. -/
opaque Config.randByte : Nat → Byte

end Sys2Proof
end

