-- ==== Sys2Proof/Machine/State.lean ====
section
/-! DEFINITION. The state of the core (spec 10_state.md), its faults (60_exceptions.md), and reset
(R37, R142). -/

namespace Sys2Proof.Machine

/-- The six errors of a step, `ChipError` (R119), with their records. A step that raises one is a NEXT state whose run
state is `Faulted(e)` (R13, R128): the spec says what state the fault leaves. `Sys2Proof.Machine.step` answers
`.fault e` on a step request to a core that already is in `Faulted(e)`: that core is terminal, and its outcome output
keeps showing `Error(e)` (R60). -/
inductive Fault where
  /-- Raised by decode in any step, on a word outside the opcode map: the pre-advance pc and the raw word (R71, R120).
  Safe: the spec ends the run here. -/
  | instructionNotDefined (address instruction : Word)
  /-- Raised by the step before fetch, when pc + 1 ≥ 4096: the offending pc (R61, R121). Safe: the spec ends the run
  here. -/
  | pcOutOfBounds (pc : Word)
  /-- Raised by DXYN, FX33, FX55 and FX65 on a data access at an address ≥ 4096: the lowest offending address, an
  unwrapped natural (R43, R44, R122). Safe: the spec ends the run here (D4). -/
  | memOutOfBounds (address : Nat)
  /-- Raised by 2NNN on a full stack, only with a finite STACK_DEPTH: the pc of the CALL (R29, R123). Safe: the spec
  ends the run here (D6). -/
  | stackOverflow (pc : Word)
  /-- Raised by 00EE on an empty stack: the pc of the RET (R30, R124). Safe: the spec ends the run here (D7). -/
  | stackUnderflow (pc : Word)
  /-- Raised by EX9E and EXA1 when V[X] > 15: the pc and the value of VX (R118, R125). Safe: the spec ends the run here
  (D13). -/
  | keyIndexOutOfRange (pc : Word) (value : Byte)
  deriving DecidableEq, Repr

/-- Instructions the model gives no meaning. -/
inductive Refusal where
  /-- An arm of `exec` that is not written yet, by the mnemonic of spec/opcode_table.json. Safe. No arm answers it:
  all 35 instructions have their meaning. -/
  | notModelled (mnemonic : String)
  deriving DecidableEq, Repr

/-- The run state (R36). -/
inductive RunState where
  /-- The core steps. -/
  | running
  /-- A step returned Halt (R76, R130); terminal. -/
  | halted
  /-- A step raised `e` (R13, R128); terminal. -/
  | faulted (e : Fault)
  deriving DecidableEq, Repr

/-- Memory (R24): the cells that differ from their content at reset, by rising address. -/
abbrev Memory := List Host.Cell

/-- The framebuffer (R33): 64 × 32 booleans, pixel (x, y) at the row-major index y·64 + x. -/
abbrev Framebuffer := Vector Bool (Config.fbW * Config.fbH)

/-- The state (10_state.md). -/
structure State where
  /-- The parameters of this machine (R8); no operation changes them. -/
  cfg : Config
  /-- Memory (R24). -/
  mem : Memory
  /-- V0..VF (R17). -/
  v : Vector Byte Config.numV
  /-- I, the address register (R20). -/
  i : Word
  /-- The program counter (R21). -/
  pc : Word
  /-- The call stack, its last element the top (R27). -/
  stack : List Word
  /-- DT, the delay timer (R31). -/
  dt : Byte
  /-- ST, the sound timer (R31). -/
  st : Byte
  /-- The framebuffer (R33). -/
  fb : Framebuffer
  /-- The instruction trace, oldest first (R35). -/
  trace : List Word
  /-- The run state (R36). -/
  run : RunState
  /-- The keypad snapshot, an input the host writes (R34); true is pressed. -/
  key : Vector Bool Config.numKeys
  /-- The model's own: how many random bytes have been drawn (R98; log entry 1). -/
  draws : Nat
  deriving DecidableEq, Repr

/-- Construction (R142) on a machine with the given parameters; the table of R37. -/
def State.resetWith (c : Config) : State where
  cfg := c
  mem := []
  v := Vector.replicate Config.numV 0
  i := 0
  pc := BitVec.ofNat Config.pcWidth Config.programBase
  stack := []
  dt := 0
  st := 0
  fb := Vector.replicate (Config.fbW * Config.fbH) false
  trace := []
  run := .running
  key := Vector.replicate Config.numKeys false
  draws := 0

/-- The machine right after reset (R37), with the default parameters (log entries 2 and 3). -/
def State.reset : State := State.resetWith Config.default

end Sys2Proof.Machine
end

