-- ==== Sys2Proof/Machine/Ops.lean ====
section
/-! DEFINITION. The named operations over the state: one home for each read and write (spec R11, R12), the call stack
(R29, R30), the bounds check (R43, R44), raising a fault (R13, R128), and the phases of the step before execute
(R59 to R63). -/

namespace Sys2Proof.Machine

/-- What a step or a meaning answers. -/
abbrev Result := Host.Outcome State Fault Refusal

/-! ## Memory -/

/-- What an address reads as where memory lists nothing: its content at reset (R46, R142), FONT_TABLE in the font
region and zero elsewhere. DEDUCED: see log entry 6. -/
def resetByte (font : Vector Byte Config.fontBytes) (a : Nat) : Byte :=
  if Config.fontBase ≤ a then (font[a - Config.fontBase]?).getD 0 else 0

/-- The canonical form from address `low` on: addresses rise strictly and lie inside memory, and no cell holds what
its address reads as when unlisted. -/
def Memory.wfFrom (font : Vector Byte Config.fontBytes) : Nat → Memory → Bool
  | _, [] => true
  | low, (a, b) :: m =>
    decide (low ≤ a) && decide (a < Config.memSize) && decide (b ≠ resetByte font a) && Memory.wfFrom font (a + 1) m

/-- The canonical form of memory. -/
def Memory.wf (font : Vector Byte Config.fontBytes) (m : Memory) : Bool := Memory.wfFrom font 0 m

/-- The listed byte at an address, if there is one. -/
def Memory.find : Memory → Nat → Option Byte
  | [], _ => none
  | (b, w) :: m, a => if a = b then some w else Memory.find m a

/-- `mem[a]` (R12): the listed byte, or else the content at reset. -/
def Memory.read (font : Vector Byte Config.fontBytes) (m : Memory) (a : Nat) : Byte :=
  match Memory.find m a with
  | some w => w
  | none => resetByte font a

/-- List a byte at an address, in address order. -/
def Memory.put (a : Nat) (v : Byte) : Memory → Memory
  | [] => [(a, v)]
  | (b, w) :: m =>
    if a < b then (a, v) :: (b, w) :: m
    else if a = b then (a, v) :: m
    else (b, w) :: Memory.put a v m

/-- List nothing at an address. -/
def Memory.unlist (a : Nat) : Memory → Memory
  | [] => []
  | (b, w) :: m => if a = b then Memory.unlist a m else (b, w) :: Memory.unlist a m

/-- `mem[a] <- v` (R12), in canonical form. An address outside memory is not written (R43). -/
def Memory.write (font : Vector Byte Config.fontBytes) (m : Memory) (a : Nat) (v : Byte) : Memory :=
  if a < Config.memSize then
    if v = resetByte font a then Memory.unlist a m else Memory.put a v m
  else m

/-- Consecutive bytes from an address up (R144). -/
def Memory.writeBytes (font : Vector Byte Config.fontBytes) : Memory → Nat → List Byte → Memory
  | m, _, [] => m
  | m, a, b :: bs => Memory.writeBytes font (Memory.write font m a b) (a + 1) bs

/-! ## One home for each piece of state -/

/-- `V[x]` (R11). -/
def State.reg (s : State) (x : Reg) : Byte := s.v[x.toNat]'(x.isLt)

/-- `V[x] <- b` (R11). -/
def State.setReg (s : State) (x : Reg) (b : Byte) : State := { s with v := s.v.set x.toNat b x.isLt }

/-- `I <- a` (R11). -/
def State.setI (s : State) (a : Word) : State := { s with i := a }

/-- `pc <- a` (R11). -/
def State.setPc (s : State) (a : Word) : State := { s with pc := a }

/-- The call stack replaced (R27). -/
def State.setStack (s : State) (l : List Word) : State := { s with stack := l }

/-- `DT <- b` (R11). -/
def State.setDt (s : State) (b : Byte) : State := { s with dt := b }

/-- `ST <- b` (R11). -/
def State.setSt (s : State) (b : Byte) : State := { s with st := b }

/-- The framebuffer replaced (R33). -/
def State.setFb (s : State) (f : Framebuffer) : State := { s with fb := f }

/-- Memory replaced (R24). -/
def State.setMem (s : State) (m : Memory) : State := { s with mem := m }

/-- The trace replaced (R35). -/
def State.setTrace (s : State) (l : List Word) : State := { s with trace := l }

/-- The run state replaced (R36). -/
def State.setRun (s : State) (r : RunState) : State := { s with run := r }

/-- The keypad snapshot replaced: a move of the host (R34). -/
def State.setKeys (s : State) (k : Vector Bool Config.numKeys) : State := { s with key := k }

/-- The number of the next random draw replaced (R98). -/
def State.setDraws (s : State) (n : Nat) : State := { s with draws := n }

/-- `mem[a]` (R12). -/
def State.byte (s : State) (a : Nat) : Byte := Memory.read s.cfg.font s.mem a

/-- `mem[a] <- v` (R12). -/
def State.setByte (s : State) (a : Nat) (v : Byte) : State := s.setMem (Memory.write s.cfg.font s.mem a v)

/-- The row-major index of a pixel lies inside the framebuffer (R33). -/
theorem pixelIndex_lt (x : Fin Config.fbW) (y : Fin Config.fbH) :
    y.val * Config.fbW + x.val < Config.fbW * Config.fbH := by
  have hx : x.val < 64 := x.isLt
  have hy : y.val < 32 := y.isLt
  change y.val * 64 + x.val < 2048
  omega

/-- Pixel (x, y) of a framebuffer, row-major (R33). -/
def Framebuffer.pixel (f : Framebuffer) (x : Fin Config.fbW) (y : Fin Config.fbH) : Bool := f[y.val * Config.fbW + x.val]'(pixelIndex_lt x y)

/-- Pixel (x, y) replaced. -/
def Framebuffer.setPixel (f : Framebuffer) (x : Fin Config.fbW) (y : Fin Config.fbH) (b : Bool) : Framebuffer :=
  f.set (y.val * Config.fbW + x.val) b (pixelIndex_lt x y)

/-- `fb[x][y]` (R11). -/
def State.pixel (s : State) (x : Fin Config.fbW) (y : Fin Config.fbH) : Bool := Framebuffer.pixel s.fb x y

/-- `key[k]` (R11): true is pressed (R34). -/
def State.keyDown (s : State) (k : BitVec 4) : Bool := s.key[k.toNat]'(k.isLt)

/-! ## The size of an instruction -/

/-- INSN_BYTES as the pc counts it: the baseline advance (R8, R63). -/
abbrev insnStep : Word := BitVec.ofNat Config.pcWidth Config.insnBytes

/-! ## Raising a fault -/

/-- `raise e` (R13): the fault every raising step takes. The state is left as it is, with nothing of the execute phase
done, and the core enters `Faulted(e)` (R128). There is no trap entry, no handler and no return from a fault (R129);
only the reset input leaves `Faulted` (R143). DESIGN CHOICE: the answer is a next state (log entry 4). -/
def raise (e : Fault) (s : State) : Result := .next (s.setRun (.faulted e))

/-- `p`, the address of the instruction that executes: the pc was advanced by 2 before execute (R63, R150).
DEDUCED: see log entry 17. -/
def insnAddr (s : State) : Word := s.pc - insnStep

/-! ## The call stack -/

/-- The stack holds STACK_DEPTH entries (R28, R29). Only a finite depth can be reached. -/
def stackFull (s : State) : Bool :=
  match s.cfg.stackDepth with
  | none => false
  | some n => decide (n ≤ s.stack.length)

/-- `push(v)`, then the rest of the instruction (R29). -/
def push (v : Word) (s : State) (rest : State → Result) : Result :=
  if stackFull s then raise (.stackOverflow (insnAddr s)) s else rest (s.setStack (s.stack ++ [v]))

/-- `pop()`, then the rest of the instruction, which gets the popped value (R30). -/
def pop (s : State) (rest : Word → State → Result) : Result :=
  match s.stack.getLast? with
  | none => raise (.stackUnderflow (insnAddr s)) s
  | some v => rest v (s.setStack s.stack.dropLast)

/-! ## The bounds check -/

/-- The fault of `count` accesses from `base` up: all of them are checked, unwrapped, before any is made, and the
lowest offending address is reported (R43, R44). DEDUCED: the spec's decisions D4 and D5 (log entry 14). -/
def blockFault (base count : Nat) : Option Fault :=
  if count = 0 ∨ base + count ≤ Config.memSize then none else some (.memOutOfBounds (max base Config.memSize))

/-- Do the rest only if every one of `count` accesses from `base` up is in bounds (R43). -/
def withBlock (base count : Nat) (s : State) (rest : State → Result) : Result :=
  match blockFault base count with
  | some e => raise e s
  | none => rest s

/-! ## Control transfer -/

/-- A skip: `pc <- pc + 2` beyond the baseline advance, if the condition holds (40_control_flow.md, opening). -/
def skipIf (c : Bool) (s : State) : State := if c then s.setPc (s.pc + insnStep) else s

/-! ## The phases of the step before execute -/

/-- The pc and its successor byte lie inside memory (R61). -/
def fetchable (s : State) : Bool := decide (s.pc.toNat + 1 < Config.memSize)

/-- `Fetch16(pc)`: big-endian (R39, R62). -/
def fetchWord (s : State) : Word := wordOfBytes (s.byte s.pc.toNat) (s.byte (s.pc.toNat + 1))

/-- The trace with a word appended and the oldest entry dropped past the bound (R35, R59). -/
def pushTrace (l : List Word) (w : Word) : List Word :=
  let l' := l ++ [w]
  if Config.traceDepth < l'.length then l'.tail else l'

/-- The state in which an instruction executes: the fetched word traced (R62), the pc advanced by 2 (R63). -/
def fetched (s : State) : State := (s.setTrace (pushTrace s.trace (fetchWord s))).setPc (s.pc + insnStep)

/-! ## A step request to a terminal core -/

/-- Halted: the request changes nothing, and the outcome stays Halt (R60). DESIGN CHOICE: see log entry 4. -/
def haltedRequest (s : State) : Result := .next s

/-- Faulted: the request changes nothing, and the outcome stays `Error(e)` (R60). DESIGN CHOICE: see log entry 4. -/
def faultedRequest (e : Fault) (_ : State) : Result := .fault e

/-- An instruction's word placed at the pc, where a running core fetches next. DESIGN CHOICE: see log entry 7. -/
def placeAtPc (s : State) (bytes : List Byte) : State :=
  (s.setMem (Memory.writeBytes s.cfg.font s.mem s.pc.toNat bytes)).setRun .running

end Sys2Proof.Machine
end

