-- ==== Sys2Proof/Machine/Flags.lean ====
section
/-! DEFINITION. The flag computations (spec R22) and the order in which result and flag are written (R100). -/

namespace Sys2Proof.Machine

/-- A flag value: 1 or 0 (R22). -/
def flagOf (c : Bool) : Byte := if c then 1 else 0

/-- 8XY4: the carry of the exact sum (R92). -/
def carryFlag (a b : Byte) : Byte := flagOf (decide (255 < a.toNat + b.toNat))

/-- 8XY5 and 8XY7: no borrow in `a - b` (R93, R95). -/
def notBorrowFlag (a b : Byte) : Byte := flagOf (decide (b.toNat ≤ a.toNat))

/-- 8XY6: the low bit, which a right shift moves out (R94). -/
def lowBitFlag (b : Byte) : Byte := flagOf (b.getLsbD 0)

/-- 8XYE: the high bit, which a left shift moves out (R96). -/
def highBitFlag (b : Byte) : Byte := flagOf (b.getLsbD 7)

/-- The result to V[X], then the flag to VF, written last (R100, D9). DEDUCED: see log entry 10. -/
def writeWithFlag (x : Reg) (result flag : Byte) (s : State) : State := (s.setReg x result).setReg flagReg flag

end Sys2Proof.Machine
end

