-- ==== Sys2Proof/Machine/Alu.lean ====
section
/-! DEFINITION. Register and ALU instructions (spec 41_alu.md). Operands are read before any write, and where a flag
is written it is written last (R100). -/

namespace Sys2Proof.Machine

/-- LD VX, NN (R86). -/
def execLdImm (x : Reg) (nn : Byte) (s : State) : Result := .next (s.setReg x nn)

/-- ADD VX, NN (R87): wraps, and VF is no flag here. -/
def execAddImm (x : Reg) (nn : Byte) (s : State) : Result := .next (s.setReg x (s.reg x + nn))

/-- LD VX, VY (R88). -/
def execLdReg (x y : Reg) (s : State) : Result := .next (s.setReg x (s.reg y))

/-- OR (R89). -/
def execOr (x y : Reg) (s : State) : Result := .next (s.setReg x (s.reg x ||| s.reg y))

/-- AND (R90). -/
def execAnd (x y : Reg) (s : State) : Result := .next (s.setReg x (s.reg x &&& s.reg y))

/-- XOR (R91). -/
def execXor (x y : Reg) (s : State) : Result := .next (s.setReg x (s.reg x ^^^ s.reg y))

/-- ADD VX, VY (R92): VF is the carry. -/
def execAddReg (x y : Reg) (s : State) : Result :=
  .next (writeWithFlag x (s.reg x + s.reg y) (carryFlag (s.reg x) (s.reg y)) s)

/-- SUB (R93): VF is not-borrow. -/
def execSub (x y : Reg) (s : State) : Result :=
  .next (writeWithFlag x (s.reg x - s.reg y) (notBorrowFlag (s.reg x) (s.reg y)) s)

/-- SHR (R94): the source is VY; VF is the bit shifted out. -/
def execShr (x y : Reg) (s : State) : Result :=
  .next (writeWithFlag x (s.reg y >>> 1) (lowBitFlag (s.reg y)) s)

/-- SUBN (R95): VF is not-borrow of VY - VX. -/
def execSubn (x y : Reg) (s : State) : Result :=
  .next (writeWithFlag x (s.reg y - s.reg x) (notBorrowFlag (s.reg y) (s.reg x)) s)

/-- SHL (R96): the source is VY; VF is the bit shifted out. -/
def execShl (x y : Reg) (s : State) : Result :=
  .next (writeWithFlag x (s.reg y <<< 1) (highBitFlag (s.reg y)) s)

/-- RND (R97): the random byte AND NN. The byte is a free value, one for each draw (R98; log entry 1). -/
def execRnd (x : Reg) (nn : Byte) (s : State) : Result :=
  .next ((s.setReg x (Config.randByte s.draws &&& nn)).setDraws (s.draws + 1))

end Sys2Proof.Machine
end

