-- ==== Sys2Proof/Machine/Operands.lean ====
section
/-! DEFINITION. The operand forms: zero-extended immediates (spec R58), the register-indirect form I + k (R44, R107),
the font address (R103), the key index (R118), the lowest pressed key (R115), decimal digits (R104). -/

namespace Sys2Proof.Machine

/-- NNN as an address: `zext_16` (R58). -/
def addrOf (nnn : Addr) : Word := nnn.setWidth 16

/-- A byte as a 16-bit number: `zext_16` (R10). -/
def wordOfByte (b : Byte) : Word := b.setWidth 16

/-- The effective address I + k, an unbounded natural (R44). -/
def effAddr (s : State) (k : Nat) : Nat := s.i.toNat + k

/-- The register whose number is k, in the loops over V0..VX (R105, R106). -/
def regNumber (k : Nat) : Reg := BitVec.ofNat 4 k

/-- I after FX55 and FX65: `(I + X + 1) mod 2^16` (R105, R106, D28). -/
def advancedI (s : State) (x : Reg) : Word := s.i + x.setWidth 16 + 1

/-- The address of the glyph a byte names: `FONT_BASE + 5 × V[X]`, of the whole byte (R103). -/
def glyphAddr (b : Byte) : Word := BitVec.ofNat 16 (Config.fontBase + 5 * b.toNat)

/-- The key a register names, if it names one of the 16 (R118). DEDUCED: the spec's decision D13 (log entry 15). -/
def keyIndex (b : Byte) : Option (BitVec 4) := if b.toNat ≤ 15 then some (b.setWidth 4) else none

/-- The 16 keys in rising order (R34). -/
def allKeys : List (BitVec 4) := (List.range Config.numKeys).map (BitVec.ofNat 4)

/-- `min { k | key[k] }`, if a key is pressed (R115, D12). PRESUMED: see log entry 12. -/
def lowestKey (s : State) : Option (BitVec 4) := allKeys.find? s.keyDown

/-- A key's number as a byte: `zext_8` (R10). -/
def byteOfKey (k : BitVec 4) : Byte := k.setWidth 8

/-- The hundreds, tens and units of a byte (R104). -/
def decimalDigits (b : Byte) : List Byte :=
  [BitVec.ofNat 8 (b.toNat / 100), BitVec.ofNat 8 (b.toNat / 10 % 10), BitVec.ofNat 8 (b.toNat % 10)]

end Sys2Proof.Machine
end

