-- ==== Sys2Proof/Machine/ControlFlow.lean ====
section
/-! DEFINITION. Control flow (spec 40_control_flow.md): HALT, RET, JP, CALL, the four register skips, JP V0. Each
meaning starts with the pc already advanced past its own word (R63). -/

namespace Sys2Proof.Machine

/-- HALT (R76): the core enters Halted; the pc stays p + 2 (D18). -/
def execHalt (s : State) : Result := .next (s.setRun .halted)

/-- RET (R77): `pc <- pop()`. -/
def execRet (s : State) : Result := pop s fun v t => .next (t.setPc v)

/-- JP (R78): `pc <- NNN`. -/
def execJp (nnn : Addr) (s : State) : Result := .next (s.setPc (addrOf nnn))

/-- CALL (R79): `push(pc); pc <- NNN`, the pc pushed being the advanced one. -/
def execCall (nnn : Addr) (s : State) : Result := push s.pc s fun t => .next (t.setPc (addrOf nnn))

/-- SE VX, NN (R80). -/
def execSeImm (x : Reg) (nn : Byte) (s : State) : Result := .next (skipIf (s.reg x == nn) s)

/-- SNE VX, NN (R81). -/
def execSneImm (x : Reg) (nn : Byte) (s : State) : Result := .next (skipIf (s.reg x != nn) s)

/-- SE VX, VY (R82). -/
def execSeReg (x y : Reg) (s : State) : Result := .next (skipIf (s.reg x == s.reg y) s)

/-- SNE VX, VY (R83). -/
def execSneReg (x y : Reg) (s : State) : Result := .next (skipIf (s.reg x != s.reg y) s)

/-- JP V0, NNN (R84): `pc <- NNN + V[0]`, not masked. -/
def execJpV0 (nnn : Addr) (s : State) : Result := .next (s.setPc (addrOf nnn + wordOfByte (s.reg 0)))

end Sys2Proof.Machine
end

