-- ==== Sys2Proof/Machine/Display.lean ====
section
/-! DEFINITION. Display instructions (spec 43_display.md): CLS and DRW. -/

namespace Sys2Proof.Machine

/-- CLS (R108). -/
def execCls (s : State) : Result := .next (s.setFb (Vector.replicate (Config.fbW * Config.fbH) false))

/-- The innermost statements of R109 at pixel (x, y): note a set pixel that is about to be cleared, and toggle. -/
def togglePixel (x : Fin Config.fbW) (y : Fin Config.fbH) (p : Framebuffer × Bool) : Framebuffer × Bool :=
  (Framebuffer.setPixel p.1 x y (!Framebuffer.pixel p.1 x y), p.2 || Framebuffer.pixel p.1 x y)

/-- One row of a sprite: bit 7 - col at column x0 + col, wrapped per pixel (R109, R110). PRESUMED: see log
entry 11. -/
def drawRow (x0 y0 row : Nat) (bits : Byte) (p : Framebuffer × Bool) : Framebuffer × Bool :=
  (List.range 8).foldl
    (fun q col =>
      if bits.getLsbD (7 - col) then togglePixel (Fin.ofNat Config.fbW (x0 + col)) (Fin.ofNat Config.fbH (y0 + row)) q
      else q) p

/-- The loops of R109: the framebuffer after the draw, and whether a set pixel was cleared. -/
def drawSprite (x0 y0 rows : Nat) (spriteByte : Nat → Byte) (f : Framebuffer) : Framebuffer × Bool :=
  (List.range rows).foldl (fun q row => drawRow x0 y0 row (spriteByte row) q) (f, false)

/-- DRW (R109): the coordinates are read before VF is reset, VF is reset, the sprite is drawn, VF is the collision.
DEDUCED: the order is the spec's decision D10 (log entry 10). -/
def execDrw (x y : Reg) (n : Nibble) (s : State) : Result :=
  withBlock (effAddr s 0) n.toNat s fun t =>
    let cleared := t.setReg flagReg 0
    let drawn := drawSprite (t.reg x).toNat (t.reg y).toNat n.toNat (fun row => t.byte (effAddr t row)) cleared.fb
    .next ((cleared.setFb drawn.1).setReg flagReg (flagOf drawn.2))

end Sys2Proof.Machine
end

