-- ==== Sys2Proof/Machine/IndexMemory.lean ====
section
/-! DEFINITION. Address register and memory instructions (spec 42_index_memory.md). An instruction whose accesses are
not all in bounds raises and does nothing else (R43). -/

namespace Sys2Proof.Machine

/-- LD I, NNN (R101). PRESUMED: the spec's own mark for group A (log entry 13). -/
def execLdI (nnn : Addr) (s : State) : Result := .next (s.setI (addrOf nnn))

/-- ADD I, VX (R102): mod 2^16; VF is unchanged. -/
def execAddI (x : Reg) (s : State) : Result := .next (s.setI (s.i + wordOfByte (s.reg x)))

/-- LD F, VX (R103). -/
def execLdF (x : Reg) (s : State) : Result := .next (s.setI (glyphAddr (s.reg x)))

/-- LD B, VX (R104): the three decimal digits to I, I+1, I+2. -/
def execLdB (x : Reg) (s : State) : Result :=
  withBlock (effAddr s 0) 3 s fun t =>
    .next (t.setMem (Memory.writeBytes t.cfg.font t.mem (effAddr t 0) (decimalDigits (t.reg x))))

/-- `for k in 0..count-1: MemWrite(I + k, 1, V[k])` (R105). -/
def storeRegs (count : Nat) (s : State) : State :=
  (List.range count).foldl (fun t k => t.setByte (effAddr t k) (t.reg (regNumber k))) s

/-- `for k in 0..count-1: V[k] <- MemRead(I + k, 1)` (R106). -/
def loadRegs (count : Nat) (s : State) : State :=
  (List.range count).foldl (fun t k => t.setReg (regNumber k) (t.byte (effAddr t k))) s

/-- LD [I], VX (R105): V0..VX to memory, then I advanced. -/
def execLdMemStore (x : Reg) (s : State) : Result :=
  withBlock (effAddr s 0) (x.toNat + 1) s fun t => .next ((storeRegs (x.toNat + 1) t).setI (advancedI t x))

/-- LD VX, [I] (R106): V0..VX from memory, then I advanced. -/
def execLdMemLoad (x : Reg) (s : State) : Result :=
  withBlock (effAddr s 0) (x.toNat + 1) s fun t => .next ((loadRegs (x.toNat + 1) t).setI (advancedI t x))

end Sys2Proof.Machine
end

