-- ==== Sys2Proof/Machine/TimersKeypad.lean ====
section
/-! DEFINITION. Timer and keypad instructions (spec 44_timers_keypad.md). -/

namespace Sys2Proof.Machine

/-- SKP VX (R112): a key index above 15 raises (R118). -/
def execSkp (x : Reg) (s : State) : Result :=
  match keyIndex (s.reg x) with
  | none => raise (.keyIndexOutOfRange (insnAddr s) (s.reg x)) s
  | some k => .next (skipIf (s.keyDown k) s)

/-- SKNP VX (R113): a key index above 15 raises (R118). -/
def execSknp (x : Reg) (s : State) : Result :=
  match keyIndex (s.reg x) with
  | none => raise (.keyIndexOutOfRange (insnAddr s) (s.reg x)) s
  | some k => .next (skipIf (!s.keyDown k) s)

/-- LD VX, DT (R114). -/
def execLdVxDT (x : Reg) (s : State) : Result := .next (s.setReg x s.dt)

/-- LD VX, K (R115): with no key pressed the pc goes back to this instruction; else VX gets the lowest pressed key.
PRESUMED: see log entry 12. -/
def execLdVxK (x : Reg) (s : State) : Result :=
  match lowestKey s with
  | none => .next (s.setPc (s.pc - insnStep))
  | some k => .next (s.setReg x (byteOfKey k))

/-- LD DT, VX (R116). -/
def execLdDTVx (x : Reg) (s : State) : Result := .next (s.setDt (s.reg x))

/-- LD ST, VX (R117). -/
def execLdSTVx (x : Reg) (s : State) : Result := .next (s.setSt (s.reg x))

end Sys2Proof.Machine
end

