-- ==== Sys2Proof/Machine/Step.lean ====
section
/-! DEFINITION. One step (spec R59): the run state, the bounds of the pc, fetch, advance, decode, execute, in the
order of R128. -/

namespace Sys2Proof.Machine

/-- One step request (R59). -/
def step (s : State) : Host.Outcome State Fault Refusal :=
  match s.run with
  | .halted => haltedRequest s
  | .faulted e => faultedRequest e s
  | .running =>
    if fetchable s then
      match decode (fetchWord s) with
      | .ok i => exec i (fetched s)
      | .error _ => raise (.instructionNotDefined s.pc (fetchWord s)) (fetched s)
    else raise (.pcOutOfBounds s.pc) s

/-- The state with an instruction's word at the pc of a running core, so that the next step runs it. The bits are
numbered as spec/opcode_table.json numbers them; an instruction is one 16-bit word (R56). -/
def State.withFetchWord (s : State) (nbits w : Nat) : State :=
  placeAtPc s (bytesOfWord (BitVec.ofNat 16 (w % 2 ^ nbits)))

end Sys2Proof.Machine
end

