-- ==== Sys2Proof/Machine/HostMoves.lean ====
section
/-! DEFINITION. The host's moves between steps (spec R51, R137): reset, load, keypad write, tick, and the read-outs. -/

namespace Sys2Proof.Machine

/-- Load's own error, which is no step outcome (R126): the image is longer than MAX_ROM. DESIGN CHOICE: R126 and R145
give it no record; the length it carries is the model's (log entry 18). -/
inductive LoadError where
  /-- The length of the image that did not fit (DESIGN CHOICE, log entry 18). -/
  | tooLong (length : Nat)
  deriving DecidableEq, Repr

/-- The reset input: construction, in any run state (R143). The parameters are the machine's and stay; the numbering
of random draws goes on, so that draws before and after a reset stay unrelated (R98; log entry 1). DEDUCED: the
keypad snapshot reads released until the host writes it again (log entry 9). -/
def hostReset (s : State) : State := (State.resetWith s.cfg).setDraws s.draws

/-- `load(bytes)` (R144): the image to PROGRAM_BASE up and the pc to PROGRAM_BASE; an image over MAX_ROM changes
nothing (R145). DESIGN CHOICE: the error's record is the model's (log entry 18). -/
def load (bytes : List Byte) (s : State) : Except LoadError State :=
  if bytes.length ≤ Config.maxRom then
    .ok ((s.setMem (Memory.writeBytes s.cfg.font s.mem Config.programBase bytes)).setPc
      (BitVec.ofNat Config.pcWidth Config.programBase))
  else .error (.tooLong bytes.length)

/-- One timer in a tick: toward zero, and 0 stays 0 (R135). -/
def tickTimer (b : Byte) : Byte := if 0 < b.toNat then b - 1 else b

/-- `tick()` (R135): both timers in the same tick, in any run state. -/
def tick (s : State) : State := (s.setDt (tickTimer s.dt)).setSt (tickTimer s.st)

/-- The host writes the keypad snapshot (R34, R137). -/
def writeKeys (k : Vector Bool Config.numKeys) (s : State) : State := s.setKeys k

/-- `fb_out` (R111, R137): the 2048 pixels, row-major. -/
def fbOut (s : State) : Framebuffer := s.fb

/-- `dt_out` (R137). -/
def dtOut (s : State) : Byte := s.dt

/-- `st_out` (R137). -/
def stOut (s : State) : Byte := s.st

/-- `sound_on = (ST ≠ 0)` (R32). -/
def soundOn (s : State) : Bool := s.st != 0

/-- `trace_out` (R137): debug only. -/
def traceOut (s : State) : List Word := s.trace

/-- The outcome of a step (R75). -/
inductive StepOutcome where
  /-- The step completed and the core runs on. -/
  | cont
  /-- HALT executed (R76). -/
  | halt
  /-- A fault was raised. -/
  | error (e : Fault)
  deriving DecidableEq, Repr

/-- The outcome output after a step: the table of R75 between outcome and run state, read from the run state. -/
def outcomeOut (s : State) : StepOutcome :=
  match s.run with
  | .running => .cont
  | .halted => .halt
  | .faulted e => .error e

end Sys2Proof.Machine
end

