-- ==== Sys2Proof/Safety.lean ====
section
/-! DEFINITION. The terms claims use: the pieces of a state and what it is to leave a piece unchanged, which pieces
each instruction may write (the spec's tables of writers), the faults each instruction may raise, the invariant of the
core, and the states that the host's moves reach. -/

namespace Sys2Proof.Machine

/-! ## Frames -/

/-- One piece of the state, as small as a reader can see it: one register, one byte, one pixel, one key. -/
inductive Piece where
  /-- The parameters of the machine. -/
  | config
  /-- A byte of memory. -/
  | byte (a : Nat)
  /-- One of V0..VF. -/
  | reg (x : Reg)
  /-- I. -/
  | index
  /-- The program counter. -/
  | pc
  /-- The call stack. -/
  | stack
  /-- DT. -/
  | delay
  /-- ST. -/
  | sound
  /-- A pixel of the framebuffer. -/
  | pixel (x : Fin Config.fbW) (y : Fin Config.fbH)
  /-- The instruction trace. -/
  | trace
  /-- The run state. -/
  | run
  /-- A key of the keypad snapshot. -/
  | key (k : BitVec 4)
  /-- The number of the next random draw. -/
  | draws
  deriving DecidableEq, Repr

/-- The piece reads the same in both states. -/
def Piece.same (p : Piece) (s t : State) : Prop :=
  match p with
  | .config => t.cfg = s.cfg
  | .byte a => t.byte a = s.byte a
  | .reg x => t.reg x = s.reg x
  | .index => t.i = s.i
  | .pc => t.pc = s.pc
  | .stack => t.stack = s.stack
  | .delay => t.dt = s.dt
  | .sound => t.st = s.st
  | .pixel x y => t.pixel x y = s.pixel x y
  | .trace => t.trace = s.trace
  | .run => t.run = s.run
  | .key k => t.keyDown k = s.keyDown k
  | .draws => t.draws = s.draws

/-- From `s` to `t`, every piece that is not `touched` is unchanged. -/
def Frame (touched : Piece → Prop) (s t : State) : Prop := ∀ p, ¬ touched p → p.same s t

/-- From `s` to `t`, every piece that is not listed is unchanged. -/
def FrameList (touched : List Piece) (s t : State) : Prop := Frame (· ∈ touched) s t

/-! ## The spec's tables of writers -/

/-- R19: the general registers each instruction writes. -/
def writesReg (i : Instr) (r : Reg) : Prop :=
  match i with
  | .ldImm x _ => r = x
  | .addImm x _ => r = x
  | .rnd x _ => r = x
  | .ldVxDT x => r = x
  | .ldVxK x => r = x
  | .ldReg x _ => r = x
  | .or x _ => r = x
  | .and x _ => r = x
  | .xor x _ => r = x
  | .addReg x _ => r = x ∨ r = flagReg
  | .sub x _ => r = x ∨ r = flagReg
  | .shr x _ => r = x ∨ r = flagReg
  | .subn x _ => r = x ∨ r = flagReg
  | .shl x _ => r = x ∨ r = flagReg
  | .drw _ _ _ => r = flagReg
  | .ldMemLoad x => r.toNat ≤ x.toNat
  | _ => False

/-- R42: the bytes of memory each instruction writes, at I + k (R44). -/
def writesByte (i : Instr) (s : State) (a : Nat) : Prop :=
  match i with
  | .ldB _ => effAddr s 0 ≤ a ∧ a ≤ effAddr s 2
  | .ldMemStore x => effAddr s 0 ≤ a ∧ a ≤ effAddr s x.toNat
  | _ => False

/-- R20: the instructions that write I. -/
def writesIndex (i : Instr) : Prop :=
  match i with
  | .ldI _ => True
  | .addI _ => True
  | .ldF _ => True
  | .ldMemStore _ => True
  | .ldMemLoad _ => True
  | _ => False

/-- R21: the instructions that change the pc beyond the baseline advance: jumps, call, return, skips, FX0A. -/
def writesPc (i : Instr) : Prop :=
  match i with
  | .ret => True
  | .jp _ => True
  | .call _ => True
  | .seImm _ _ => True
  | .sneImm _ _ => True
  | .seReg _ _ => True
  | .sneReg _ _ => True
  | .jpV0 _ => True
  | .skp _ => True
  | .sknp _ => True
  | .ldVxK _ => True
  | _ => False

/-- R27: the instructions that touch the call stack. -/
def writesStack (i : Instr) : Prop :=
  match i with
  | .call _ => True
  | .ret => True
  | _ => False

/-- R33: the instructions that write the framebuffer. -/
def writesPixels (i : Instr) : Prop :=
  match i with
  | .cls => True
  | .drw _ _ _ => True
  | _ => False

/-- R36, R75: the instructions whose execute phase can end the run: HALT, and those that can raise (R119). -/
def writesRun (i : Instr) : Prop :=
  match i with
  | .halt => True
  | .ret => True
  | .call _ => True
  | .drw _ _ _ => True
  | .skp _ => True
  | .sknp _ => True
  | .ldB _ => True
  | .ldMemStore _ => True
  | .ldMemLoad _ => True
  | _ => False

/-- The pieces that instruction `i` may write when it executes in state `s`; no instruction writes the trace, the
keypad (R34) or the parameters. -/
def writes (i : Instr) (s : State) (p : Piece) : Prop :=
  match p with
  | .config => False
  | .byte a => writesByte i s a
  | .reg r => writesReg i r
  | .index => writesIndex i
  | .pc => writesPc i
  | .stack => writesStack i
  | .delay => ∃ x, i = .ldDTVx x
  | .sound => ∃ x, i = .ldSTVx x
  | .pixel _ _ => writesPixels i
  | .trace => False
  | .run => writesRun i
  | .key _ => False
  | .draws => ∃ x nn, i = .rnd x nn

/-! ## The faults of the execute phase -/

/-- R119, R128: `e` is the fault instruction `i` at address `p` raises when it executes in state `s`. -/
def ExecFault (i : Instr) (p : Word) (s : State) (e : Fault) : Prop :=
  match i with
  | .ret => s.stack = [] ∧ e = .stackUnderflow p
  | .call _ => (∃ n, s.cfg.stackDepth = some n ∧ n ≤ s.stack.length) ∧ e = .stackOverflow p
  | .drw _ _ n => 0 < n.toNat ∧ 4096 < effAddr s n.toNat ∧ e = .memOutOfBounds (max (effAddr s 0) 4096)
  | .ldB _ => 4096 ≤ effAddr s 2 ∧ e = .memOutOfBounds (max (effAddr s 0) 4096)
  | .ldMemStore x => 4096 ≤ effAddr s x.toNat ∧ e = .memOutOfBounds (max (effAddr s 0) 4096)
  | .ldMemLoad x => 4096 ≤ effAddr s x.toNat ∧ e = .memOutOfBounds (max (effAddr s 0) 4096)
  | .skp x => 15 < (s.reg x).toNat ∧ e = .keyIndexOutOfRange p (s.reg x)
  | .sknp x => 15 < (s.reg x).toNat ∧ e = .keyIndexOutOfRange p (s.reg x)
  | _ => False

/-- `e` is the fault that a step of a running core in state `s` raises, in the priority of R128. -/
def StepFault (s : State) (e : Fault) : Prop :=
  if 4096 ≤ s.pc.toNat + 1 then e = .pcOutOfBounds s.pc
  else
    match decode (fetchWord s) with
    | .error _ => e = .instructionNotDefined s.pc (fetchWord s)
    | .ok i => ExecFault i s.pc s e

/-! ## The invariant -/

/-- What R119 says of a fault's record, whatever step raised it. -/
def Fault.Recorded (c : Config) : Fault → Prop
  | .instructionNotDefined p w => p.toNat ≤ 0x0FFE ∧ ∃ u, decode w = .error u
  | .pcOutOfBounds p => 0x0FFF ≤ p.toNat
  | .memOutOfBounds a => 4096 ≤ a ∧ a ≤ 0xFFFF
  | .stackOverflow _ => c.stackDepth ≠ none
  | .stackUnderflow _ => True
  | .keyIndexOutOfRange _ k => 15 < k.toNat

/-- The invariant of the core. -/
structure State.Inv (s : State) : Prop where
  /-- A finite STACK_DEPTH is at least 1 (R8). -/
  config : s.cfg.WellFormed
  /-- Memory keeps its canonical form, which holds no cell outside 0..4095 (R24). -/
  memory : Memory.wf s.cfg.font s.mem = true
  /-- The stack holds at most STACK_DEPTH entries (R28). -/
  depth : ∀ n, s.cfg.stackDepth = some n → s.stack.length ≤ n
  /-- Each stack entry is the address after a word inside memory (R79, R61). -/
  returns : ∀ a ∈ s.stack, 2 ≤ a.toNat ∧ a.toNat ≤ 0x1000
  /-- The pc never exceeds the largest value a jump writes, so it never wraps (R21). -/
  pc : s.pc.toNat ≤ 0x10FE
  /-- The trace holds at most TRACE_DEPTH words (R35). -/
  trace : s.trace.length ≤ Config.traceDepth
  /-- A faulted core shows a fault with the record R119 gives it. -/
  record : ∀ e, s.run = .faulted e → e.Recorded s.cfg

/-! ## The states the host's moves reach -/

/-- Whether the one load of a reset may still come (R146, D23). -/
inductive LoadPhase where
  /-- After reset, before any load and any step. -/
  | awaiting
  /-- After the load, or after a step. -/
  | past
  deriving DecidableEq, Repr

/-- The states of a machine with parameters `c` that the host's moves reach (R137, R141): construction, then resets,
one load for each reset and before the first step, steps while Running, ticks and keypad writes between steps in any
order and number (R134). The host has no other move. DESIGN CHOICE: a step before the load is let in (log entry 8). -/
inductive Reached (c : Config) : LoadPhase → State → Prop where
  /-- Construction (R142). -/
  | construct : Reached c .awaiting (State.resetWith c)
  /-- The reset input, in any run state (R143). -/
  | reset {ph : LoadPhase} {s : State} (h : Reached c ph s) : Reached c .awaiting (hostReset s)
  /-- The load (R144). -/
  | load {s t : State} (bytes : List Byte) (h : Reached c .awaiting s) (hl : load bytes s = .ok t) :
      Reached c .past t
  /-- A step of a running core (R60). -/
  | step {ph : LoadPhase} {s t : State} (h : Reached c ph s) (hr : s.run = .running) (hs : step s = .next t) :
      Reached c .past t
  /-- A tick, in any run state (R135). -/
  | tick {ph : LoadPhase} {s : State} (h : Reached c ph s) : Reached c ph (tick s)
  /-- A keypad write (R34). -/
  | keys {ph : LoadPhase} {s : State} (k : Vector Bool Config.numKeys) (h : Reached c ph s) : Reached c ph (writeKeys k s)

end Sys2Proof.Machine
end

