-- ==== Sys2Proof/WellFormed.lean ====
section
/-! DEFINITION. The ranges of the operands (spec R58). An operand is checked as the bare number an assembler would
give; `Instr` holds operands of the right widths only, so each of its terms passes (Laws/PerInstr.lean). -/

namespace Sys2Proof

/-- An operand as a bare number, before it is given a width. -/
inductive Operand where
  /-- A register number, X or Y. -/
  | reg (index : Nat)
  /-- The row count N. -/
  | n (value : Nat)
  /-- The immediate NN. -/
  | nn (value : Nat)
  /-- The address NNN. -/
  | nnn (value : Nat)
  deriving DecidableEq, Repr

/-- R58: X and Y select one of V0..VF, N is 0..15, NN is 0..0xFF, NNN is 0..0xFFF. -/
def Operand.inRange : Operand → Bool
  | .reg r => decide (r < 16)
  | .n v => decide (v < 16)
  | .nn v => decide (v < 0x100)
  | .nnn v => decide (v < 0x1000)

/-- The operands of an instruction, in the order of its pattern (R73). -/
def Instr.operands : Instr → List Operand
  | .halt => []
  | .cls => []
  | .ret => []
  | .jp a => [.nnn a.toNat]
  | .call a => [.nnn a.toNat]
  | .seImm x k => [.reg x.toNat, .nn k.toNat]
  | .sneImm x k => [.reg x.toNat, .nn k.toNat]
  | .seReg x y => [.reg x.toNat, .reg y.toNat]
  | .ldImm x k => [.reg x.toNat, .nn k.toNat]
  | .addImm x k => [.reg x.toNat, .nn k.toNat]
  | .ldReg x y => [.reg x.toNat, .reg y.toNat]
  | .or x y => [.reg x.toNat, .reg y.toNat]
  | .and x y => [.reg x.toNat, .reg y.toNat]
  | .xor x y => [.reg x.toNat, .reg y.toNat]
  | .addReg x y => [.reg x.toNat, .reg y.toNat]
  | .sub x y => [.reg x.toNat, .reg y.toNat]
  | .shr x y => [.reg x.toNat, .reg y.toNat]
  | .subn x y => [.reg x.toNat, .reg y.toNat]
  | .shl x y => [.reg x.toNat, .reg y.toNat]
  | .sneReg x y => [.reg x.toNat, .reg y.toNat]
  | .ldI a => [.nnn a.toNat]
  | .jpV0 a => [.nnn a.toNat]
  | .rnd x k => [.reg x.toNat, .nn k.toNat]
  | .drw x y k => [.reg x.toNat, .reg y.toNat, .n k.toNat]
  | .skp x => [.reg x.toNat]
  | .sknp x => [.reg x.toNat]
  | .ldVxDT x => [.reg x.toNat]
  | .ldVxK x => [.reg x.toNat]
  | .ldDTVx x => [.reg x.toNat]
  | .ldSTVx x => [.reg x.toNat]
  | .addI x => [.reg x.toNat]
  | .ldF x => [.reg x.toNat]
  | .ldB x => [.reg x.toNat]
  | .ldMemStore x => [.reg x.toNat]
  | .ldMemLoad x => [.reg x.toNat]

/-- Every operand is in the range R58 gives it. -/
def Instr.wellFormed (i : Instr) : Bool := i.operands.all Operand.inRange

end Sys2Proof
end

