-- ==== Sys2Proof/Certificates/Slice0/Obligations.lean ====
section
/-! DEFINITION. The statements for the provers, one for each rule or group of rules of the spec. Each docstring names
what it formalises, and says where a clause rests on a decision of the spec (92_eei_decisions.md) or on a choice of
the model (notes/assumptions). -/

open Sys2Proof Sys2Proof.Machine

/-! ## Encoding and decoding -/

/-- R57, R64, R74: each well-formed instruction's word decodes to that instruction, operands and all. -/
def Obligations.DecodeOfEncode : Prop :=
  ∀ i : Instr, i.wellFormed = true → decode (encode i) = .ok i

/-- R64, R74: a word that decodes is the word of the instruction it decodes to, so no bit of it is dropped. -/
def Obligations.EncodeOfDecode : Prop :=
  ∀ (w : Word) (i : Instr), decode w = .ok i → encode i = w

/-- 30_encoding.md, opening, and R64: a word selects the one row of the opcode table that its instruction has, and a
word is Undefined exactly if it selects no row. -/
def Obligations.OneOpcodeRowPerWord : Prop :=
  ∀ w : Word,
    (∀ i, decode w = .ok i → i.row ∈ opcodeTable ∧ ∀ r ∈ opcodeTable, (r.selects w = true ↔ r = i.row)) ∧
    ((∃ u, decode w = .error u) ↔ ∀ r ∈ opcodeTable, r.selects w = false)

/-- R66: group 0 selects on the whole word. -/
def Obligations.SystemGroupSelectsOnWholeWord : Prop :=
  decode 0x0000 = .ok .halt ∧ decode 0x00E0 = .ok .cls ∧ decode 0x00EE = .ok .ret ∧
  ∀ w : Word, 1 ≤ w.toNat → w.toNat ≤ 0x0FFF → w ≠ 0x00E0 → w ≠ 0x00EE → ∃ u, decode w = .error u

/-- R67: groups 5 and 9 decode only when N = 0. That N is checked is the spec's decision D8. -/
def Obligations.RegisterSkipsNeedZeroN : Prop :=
  ∀ (x y : Reg) (n : Nibble),
    (n = 0 → decode (0x5#4 ++ x ++ y ++ n) = .ok (.seReg x y) ∧ decode (0x9#4 ++ x ++ y ++ n) = .ok (.sneReg x y)) ∧
    (n ≠ 0 → (∃ u, decode (0x5#4 ++ x ++ y ++ n) = .error u) ∧ ∃ u, decode (0x9#4 ++ x ++ y ++ n) = .error u)

/-- R68: group 8 selects on N. -/
def Obligations.AluGroupSelectsOnN : Prop :=
  ∀ x y : Reg,
    decode (0x8#4 ++ x ++ y ++ 0x0#4) = .ok (.ldReg x y) ∧ decode (0x8#4 ++ x ++ y ++ 0x1#4) = .ok (.or x y) ∧
    decode (0x8#4 ++ x ++ y ++ 0x2#4) = .ok (.and x y) ∧ decode (0x8#4 ++ x ++ y ++ 0x3#4) = .ok (.xor x y) ∧
    decode (0x8#4 ++ x ++ y ++ 0x4#4) = .ok (.addReg x y) ∧ decode (0x8#4 ++ x ++ y ++ 0x5#4) = .ok (.sub x y) ∧
    decode (0x8#4 ++ x ++ y ++ 0x6#4) = .ok (.shr x y) ∧ decode (0x8#4 ++ x ++ y ++ 0x7#4) = .ok (.subn x y) ∧
    decode (0x8#4 ++ x ++ y ++ 0xE#4) = .ok (.shl x y) ∧
    ∀ n : Nibble, n ∈ [0x8#4, 0x9#4, 0xA#4, 0xB#4, 0xC#4, 0xD#4, 0xF#4] →
      ∃ u, decode (0x8#4 ++ x ++ y ++ n) = .error u

/-- R69, R70: groups E and F select on NN. -/
def Obligations.KeyAndMiscGroupsSelectOnNN : Prop :=
  ∀ x : Reg,
    decode (0xE#4 ++ x ++ 0x9E#8) = .ok (.skp x) ∧ decode (0xE#4 ++ x ++ 0xA1#8) = .ok (.sknp x) ∧
    decode (0xF#4 ++ x ++ 0x07#8) = .ok (.ldVxDT x) ∧ decode (0xF#4 ++ x ++ 0x0A#8) = .ok (.ldVxK x) ∧
    decode (0xF#4 ++ x ++ 0x15#8) = .ok (.ldDTVx x) ∧ decode (0xF#4 ++ x ++ 0x18#8) = .ok (.ldSTVx x) ∧
    decode (0xF#4 ++ x ++ 0x1E#8) = .ok (.addI x) ∧ decode (0xF#4 ++ x ++ 0x29#8) = .ok (.ldF x) ∧
    decode (0xF#4 ++ x ++ 0x33#8) = .ok (.ldB x) ∧ decode (0xF#4 ++ x ++ 0x55#8) = .ok (.ldMemStore x) ∧
    decode (0xF#4 ++ x ++ 0x65#8) = .ok (.ldMemLoad x) ∧
    (∀ nn : Byte, nn ∉ [0x9E#8, 0xA1#8] → ∃ u, decode (0xE#4 ++ x ++ nn) = .error u) ∧
    ∀ nn : Byte, nn ∉ [0x07#8, 0x0A#8, 0x15#8, 0x18#8, 0x1E#8, 0x29#8, 0x33#8, 0x55#8, 0x65#8] →
      ∃ u, decode (0xF#4 ++ x ++ nn) = .error u

/-- Words written out from the patterns and examples of 40_control_flow.md to 44_timers_keypad.md. -/
def Obligations.WrittenOutWordsDecode : Prop :=
  decode 0x1234 = .ok (.jp 0x234) ∧ decode 0x4310 = .ok (.sneImm 0x3 0x10) ∧ decode 0x8126 = .ok (.shr 0x1 0x2) ∧
  decode 0xF533 = .ok (.ldB 0x5) ∧ decode 0xD125 = .ok (.drw 0x1 0x2 0x5) ∧ decode 0xE49E = .ok (.skp 0x4)

/-! ## The step -/

/-- R59, R62, R63: a running core whose pc and successor lie inside memory fetches the big-endian word at the pc, and
if that word decodes to a well-formed instruction the step is that instruction executed in the fetched state: the
trace appended, the pc advanced by 2, and every other piece as it was. -/
def Obligations.StepRunsDecodedInstruction : Prop :=
  ∀ (s : State) (i : Instr), s.run = .running → s.pc.toNat + 1 < 4096 →
    decode (s.byte s.pc.toNat ++ s.byte (s.pc.toNat + 1)) = .ok i → i.wellFormed = true →
    step s = exec i (fetched s) ∧ (fetched s).pc = s.pc + 2 ∧
    (fetched s).trace = pushTrace s.trace (s.byte s.pc.toNat ++ s.byte (s.pc.toNat + 1)) ∧
    FrameList [.pc, .trace] s (fetched s)

/-- R62, R35: every fetch of a running core is traced, whatever its word; a trace of 14 words drops its oldest.
The depth 14 and the empty trace at reset are the spec's decision D20. -/
def Obligations.EveryFetchIsTraced : Prop :=
  ∀ s : State, s.run = .running → s.pc.toNat + 1 < 4096 → s.trace.length ≤ 14 →
    ∃ t, step s = .next t ∧
      (s.trace.length < 14 → t.trace = s.trace ++ [fetchWord s]) ∧
      (s.trace.length = 14 → t.trace = s.trace.tail ++ [fetchWord s])

/-- R61: pc + 1 ≥ 4096 raises PcOutOfBounds and changes nothing but the run state. The fault's record is the spec's
decision D27. -/
def Obligations.PcOutOfBoundsChangesNothingElse : Prop :=
  ∀ s : State, s.run = .running → 4096 ≤ s.pc.toNat + 1 →
    ∃ t, step s = .next t ∧ t.run = .faulted (.pcOutOfBounds s.pc) ∧ FrameList [.run] s t

/-- R71: an Undefined word raises InstructionNotDefined with the pre-advance pc and the raw word, after fetch, trace
and advance, with no execute phase. The run state and the state left are the spec's decisions D18 and D19. -/
def Obligations.UndefinedWordRaises : Prop :=
  ∀ (s : State) (u : Undefined), s.run = .running → s.pc.toNat + 1 < 4096 → decode (fetchWord s) = .error u →
    ∃ t, step s = .next t ∧ t.run = .faulted (.instructionNotDefined s.pc (fetchWord s)) ∧
      t.pc = s.pc + 2 ∧ t.trace = pushTrace s.trace (fetchWord s) ∧ FrameList [.pc, .trace, .run] s t

/-- R60: a step request to a halted or faulted core changes nothing and keeps the outcome that ended the run: Halt is
read from the run state, and a fault is the answer of the step. That a terminal core has no step is the spec's decision
D18; how the two outcomes show at the host's interface is the model's choice (log entry 4). -/
def Obligations.TerminalCoreDoesNotStep : Prop :=
  ∀ s : State, (s.run = .halted → step s = .next s) ∧ ∀ e, s.run = .faulted e → step s = .fault e

/-- R59, R75, R128: a step of a running core always completes, and its outcome is Continue, Halt or Error(e): Error(e)
exactly with the fault the priority of R128 picks, Halt exactly if HALT executed, else Continue. The faults past the
source's two are the spec's decisions D4, D6, D7, D8 and D13, the run state D18 and D19. That a raising step is a next
state is the model's choice (log entry 4). -/
def Obligations.StepOutcomeIsDetermined : Prop :=
  ∀ s : State, s.run = .running →
    ∃ t, step s = .next t ∧
      (∀ e, outcomeOut t = .error e ↔ StepFault s e) ∧
      (outcomeOut t = .halt ↔ s.pc.toNat + 1 < 4096 ∧ fetchWord s = 0x0000)

/-! ## Control flow -/

/-- R76: HALT. The pc it leaves, p + 2, is the spec's decision D18. -/
def Obligations.HaltEndsTheRun : Prop :=
  decode 0x0000 = .ok .halt ∧
  ∀ s : State, ∃ t, exec .halt s = .next t ∧ t.run = .halted ∧ FrameList [.run] s t

/-- R77, R30: RET takes the top of the stack as the pc; on an empty stack it raises StackUnderflow with its own
address, and nothing else happens (the spec's decision D7). -/
def Obligations.RetPopsTheReturnAddress : Prop :=
  decode 0x00EE = .ok .ret ∧
  (∀ (s : State) (l : List Word) (a : Word), s.stack = l ++ [a] →
    ∃ t, exec .ret s = .next t ∧ t.pc = a ∧ t.stack = l ∧ FrameList [.pc, .stack] s t) ∧
  ∀ s : State, s.stack = [] →
    ∃ t, exec .ret s = .next t ∧ t.run = .faulted (.stackUnderflow (s.pc - 2)) ∧ FrameList [.run] s t

/-- R78: JP. -/
def Obligations.JumpTakesNNN : Prop :=
  ∀ (nnn : Addr) (s : State), decode (0x1#4 ++ nnn) = .ok (.jp nnn) ∧
    ∃ t, exec (.jp nnn) s = .next t ∧ t.pc.toNat = nnn.toNat ∧ FrameList [.pc] s t

/-- R79, R29: CALL pushes the advanced pc and jumps; on a full stack of finite depth it raises StackOverflow with its
own address, and neither stack nor pc changes (the spec's decision D6). -/
def Obligations.CallPushesTheNextAddress : Prop :=
  ∀ (nnn : Addr) (s : State), decode (0x2#4 ++ nnn) = .ok (.call nnn) ∧
    ((∀ n, s.cfg.stackDepth = some n → s.stack.length < n) →
      ∃ t, exec (.call nnn) s = .next t ∧ t.pc.toNat = nnn.toNat ∧ t.stack = s.stack ++ [s.pc] ∧
        FrameList [.pc, .stack] s t) ∧
    (∀ n, s.cfg.stackDepth = some n → n ≤ s.stack.length →
      ∃ t, exec (.call nnn) s = .next t ∧ t.run = .faulted (.stackOverflow (s.pc - 2)) ∧ FrameList [.run] s t)

/-- R79, R77: a CALL that has room and the RET right after it come back to the address after the CALL, with the stack
as it was. That the pc pushed is the advanced one is the spec's inference in R79. -/
def Obligations.RetUndoesCall : Prop :=
  ∀ (nnn : Addr) (s : State), (∀ n, s.cfg.stackDepth = some n → s.stack.length < n) →
    ∃ t u, exec (.call nnn) s = .next t ∧ exec .ret (fetched t) = .next u ∧ u.pc = s.pc ∧ u.stack = s.stack

/-- R80, R81: the skips on an immediate. -/
def Obligations.ImmediateSkips : Prop :=
  ∀ (x : Reg) (nn : Byte) (s : State),
    decode (0x3#4 ++ x ++ nn) = .ok (.seImm x nn) ∧ decode (0x4#4 ++ x ++ nn) = .ok (.sneImm x nn) ∧
    (∃ t, exec (.seImm x nn) s = .next t ∧ t.pc = (if s.reg x = nn then s.pc + 2 else s.pc) ∧
      FrameList [.pc] s t) ∧
    ∃ t, exec (.sneImm x nn) s = .next t ∧ t.pc = (if s.reg x ≠ nn then s.pc + 2 else s.pc) ∧ FrameList [.pc] s t

/-- R82, R83: the skips on two registers. That their N is checked is the spec's decision D8
(RegisterSkipsNeedZeroN). -/
def Obligations.RegisterSkips : Prop :=
  ∀ (x y : Reg) (s : State),
    (∃ t, exec (.seReg x y) s = .next t ∧ t.pc = (if s.reg x = s.reg y then s.pc + 2 else s.pc) ∧
      FrameList [.pc] s t) ∧
    ∃ t, exec (.sneReg x y) s = .next t ∧ t.pc = (if s.reg x ≠ s.reg y then s.pc + 2 else s.pc) ∧
      FrameList [.pc] s t

/-- R84: JP V0, NNN. The sum is exact: neither masked to 12 bits nor wrapped (the spec's
inference in R84). -/
def Obligations.JumpOffsetIsNotMasked : Prop :=
  ∀ (nnn : Addr) (s : State), decode (0xB#4 ++ nnn) = .ok (.jpV0 nnn) ∧
    ∃ t, exec (.jpV0 nnn) s = .next t ∧ t.pc.toNat = nnn.toNat + (s.reg 0x0).toNat ∧ FrameList [.pc] s t

/-! ## Registers and ALU -/

/-- R86: LD VX, NN. -/
def Obligations.LoadImmediate : Prop :=
  ∀ (x : Reg) (nn : Byte) (s : State), decode (0x6#4 ++ x ++ nn) = .ok (.ldImm x nn) ∧
    ∃ t, exec (.ldImm x nn) s = .next t ∧ t.reg x = nn ∧ FrameList [.reg x] s t

/-- R87: ADD VX, NN wraps modulo 256, and VF is untouched unless it is VX. -/
def Obligations.AddImmediateWrapsWithoutFlag : Prop :=
  ∀ (x : Reg) (nn : Byte) (s : State), decode (0x7#4 ++ x ++ nn) = .ok (.addImm x nn) ∧
    ∃ t, exec (.addImm x nn) s = .next t ∧ (t.reg x).toNat = ((s.reg x).toNat + nn.toNat) % 256 ∧
      FrameList [.reg x] s t

/-- R88: LD VX, VY. -/
def Obligations.LoadRegister : Prop :=
  ∀ (x y : Reg) (s : State), decode (0x8#4 ++ x ++ y ++ 0x0#4) = .ok (.ldReg x y) ∧
    ∃ t, exec (.ldReg x y) s = .next t ∧ t.reg x = s.reg y ∧ FrameList [.reg x] s t

/-- R89, R90, R91: OR, AND and XOR bit by bit, VF untouched unless it is VX. -/
def Obligations.BitwiseOperations : Prop :=
  ∀ (x y : Reg) (s : State),
    decode (0x8#4 ++ x ++ y ++ 0x1#4) = .ok (.or x y) ∧ decode (0x8#4 ++ x ++ y ++ 0x2#4) = .ok (.and x y) ∧
    decode (0x8#4 ++ x ++ y ++ 0x3#4) = .ok (.xor x y) ∧
    (∃ t, exec (.or x y) s = .next t ∧ FrameList [.reg x] s t ∧
      ∀ k, (t.reg x).getLsbD k = ((s.reg x).getLsbD k || (s.reg y).getLsbD k)) ∧
    (∃ t, exec (.and x y) s = .next t ∧ FrameList [.reg x] s t ∧
      ∀ k, (t.reg x).getLsbD k = ((s.reg x).getLsbD k && (s.reg y).getLsbD k)) ∧
    ∃ t, exec (.xor x y) s = .next t ∧ FrameList [.reg x] s t ∧
      ∀ k, (t.reg x).getLsbD k = ((s.reg x).getLsbD k != (s.reg y).getLsbD k)

/-- R92, R100: ADD VX, VY, with the carry in VF. That VF keeps the flag when X is F is the spec's decision D9. -/
def Obligations.AddSetsCarry : Prop :=
  ∀ (x y : Reg) (s : State), decode (0x8#4 ++ x ++ y ++ 0x4#4) = .ok (.addReg x y) ∧
    ∃ t, exec (.addReg x y) s = .next t ∧
      (x ≠ flagReg → (t.reg x).toNat = ((s.reg x).toNat + (s.reg y).toNat) % 256) ∧
      (t.reg flagReg).toNat = (if 255 < (s.reg x).toNat + (s.reg y).toNat then 1 else 0) ∧
      FrameList [.reg x, .reg flagReg] s t

/-- R93, R95, R100: SUB and SUBN, with not-borrow in VF. That VF keeps the flag when X is F is the spec's decision
D9. -/
def Obligations.SubtractionsSetNotBorrow : Prop :=
  ∀ (x y : Reg) (s : State),
    decode (0x8#4 ++ x ++ y ++ 0x5#4) = .ok (.sub x y) ∧ decode (0x8#4 ++ x ++ y ++ 0x7#4) = .ok (.subn x y) ∧
    (∃ t, exec (.sub x y) s = .next t ∧
      (x ≠ flagReg → ((t.reg x).toNat : Int) = (((s.reg x).toNat : Int) - (s.reg y).toNat) % 256) ∧
      (t.reg flagReg).toNat = (if (s.reg y).toNat ≤ (s.reg x).toNat then 1 else 0) ∧
      FrameList [.reg x, .reg flagReg] s t) ∧
    ∃ t, exec (.subn x y) s = .next t ∧
      (x ≠ flagReg → ((t.reg x).toNat : Int) = (((s.reg y).toNat : Int) - (s.reg x).toNat) % 256) ∧
      (t.reg flagReg).toNat = (if (s.reg x).toNat ≤ (s.reg y).toNat then 1 else 0) ∧
      FrameList [.reg x, .reg flagReg] s t

/-- R94, R96, R100: the shifts take VY, move it by one, and put the bit shifted out in VF. That VF keeps the flag when
X is F is the spec's decision D9. -/
def Obligations.ShiftsTakeVY : Prop :=
  ∀ (x y : Reg) (s : State),
    decode (0x8#4 ++ x ++ y ++ 0x6#4) = .ok (.shr x y) ∧ decode (0x8#4 ++ x ++ y ++ 0xE#4) = .ok (.shl x y) ∧
    (∃ t, exec (.shr x y) s = .next t ∧
      (x ≠ flagReg → (t.reg x).toNat = (s.reg y).toNat / 2) ∧
      (t.reg flagReg).toNat = (s.reg y).toNat % 2 ∧ FrameList [.reg x, .reg flagReg] s t) ∧
    ∃ t, exec (.shl x y) s = .next t ∧
      (x ≠ flagReg → (t.reg x).toNat = (2 * (s.reg y).toNat) % 256) ∧
      (t.reg flagReg).toNat = (s.reg y).toNat / 128 ∧ FrameList [.reg x, .reg flagReg] s t

/-- R97, R98: RND gives the step's random byte AND NN, whatever the byte is. The byte is a free value of the model, one
for each draw (log entry 1; the spec's decision D14). -/
def Obligations.RandomByteIsMasked : Prop :=
  ∀ (x : Reg) (nn : Byte) (s : State), decode (0xC#4 ++ x ++ nn) = .ok (.rnd x nn) ∧
    ∃ t, exec (.rnd x nn) s = .next t ∧ t.reg x = Config.randByte s.draws &&& nn ∧ t.draws = s.draws + 1 ∧
      (∀ k, nn.getLsbD k = false → (t.reg x).getLsbD k = false) ∧ FrameList [.reg x, .draws] s t

/-! ## The address register and memory -/

/-- R101: LD I, NNN. The meaning of group A is general knowledge by the spec's own mark (90_conflicts.md C4). -/
def Obligations.LoadIndex : Prop :=
  ∀ (nnn : Addr) (s : State), decode (0xA#4 ++ nnn) = .ok (.ldI nnn) ∧
    ∃ t, exec (.ldI nnn) s = .next t ∧ t.i.toNat = nnn.toNat ∧ FrameList [.index] s t

/-- R102: ADD I, VX wraps modulo 2^16 and leaves VF. That 16-bit wrap is the rule is the spec's decision D28. -/
def Obligations.AddIndexWrapsAtSixteenBits : Prop :=
  ∀ (x : Reg) (s : State), decode (0xF#4 ++ x ++ 0x1E#8) = .ok (.addI x) ∧
    ∃ t, exec (.addI x) s = .next t ∧ t.i.toNat = (s.i.toNat + (s.reg x).toNat) % 65536 ∧ FrameList [.index] s t

/-- R103: LD F, VX takes all of VX. -/
def Obligations.FontAddressOfWholeRegister : Prop :=
  ∀ (x : Reg) (s : State), decode (0xF#4 ++ x ++ 0x29#8) = .ok (.ldF x) ∧
    ∃ t, exec (.ldF x) s = .next t ∧ t.i.toNat = 0x100 + 5 * (s.reg x).toNat ∧ FrameList [.index] s t

/-- R104, R43: LD B, VX stores the three decimal digits at I, I+1, I+2; if they are not all in bounds it raises
MemOutOfBounds for the lowest offending address and stores nothing (the spec's decisions D4 and D5). -/
def Obligations.DecimalDigitsAreStored : Prop :=
  ∀ (x : Reg) (s : State), decode (0xF#4 ++ x ++ 0x33#8) = .ok (.ldB x) ∧
    (effAddr s 2 < 4096 →
      ∃ t, exec (.ldB x) s = .next t ∧
        (t.byte (effAddr s 0)).toNat = (s.reg x).toNat / 100 ∧
        (t.byte (effAddr s 1)).toNat = (s.reg x).toNat / 10 % 10 ∧
        (t.byte (effAddr s 2)).toNat = (s.reg x).toNat % 10 ∧
        Frame (fun p => ∃ k, k ≤ 2 ∧ p = .byte (effAddr s k)) s t) ∧
    (4096 ≤ effAddr s 2 →
      ∃ t, exec (.ldB x) s = .next t ∧ t.run = .faulted (.memOutOfBounds (max (effAddr s 0) 4096)) ∧
        FrameList [.run] s t)

/-- R105, R43: LD [I], VX stores V0..VX from I up and advances I by X + 1 modulo 2^16; out of bounds it raises and
does nothing else (the spec's decisions D4, D5 and D28). -/
def Obligations.RegistersAreStored : Prop :=
  ∀ (x : Reg) (s : State), decode (0xF#4 ++ x ++ 0x55#8) = .ok (.ldMemStore x) ∧
    (effAddr s x.toNat < 4096 →
      ∃ t, exec (.ldMemStore x) s = .next t ∧
        (∀ r : Reg, r.toNat ≤ x.toNat → t.byte (effAddr s r.toNat) = s.reg r) ∧
        t.i.toNat = (s.i.toNat + x.toNat + 1) % 65536 ∧
        Frame (fun p => p = .index ∨ ∃ k, k ≤ x.toNat ∧ p = .byte (effAddr s k)) s t) ∧
    (4096 ≤ effAddr s x.toNat →
      ∃ t, exec (.ldMemStore x) s = .next t ∧ t.run = .faulted (.memOutOfBounds (max (effAddr s 0) 4096)) ∧
        FrameList [.run] s t)

/-- R106, R43: LD VX, [I] loads V0..VX from I up, leaves the registers above X, and advances I by X + 1 modulo 2^16;
out of bounds it raises and does nothing else (the spec's decisions D4, D5 and D28). -/
def Obligations.RegistersAreLoaded : Prop :=
  ∀ (x : Reg) (s : State), decode (0xF#4 ++ x ++ 0x65#8) = .ok (.ldMemLoad x) ∧
    (effAddr s x.toNat < 4096 →
      ∃ t, exec (.ldMemLoad x) s = .next t ∧
        (∀ r : Reg, r.toNat ≤ x.toNat → t.reg r = s.byte (effAddr s r.toNat)) ∧
        t.i.toNat = (s.i.toNat + x.toNat + 1) % 65536 ∧
        Frame (fun p => p = .index ∨ ∃ r : Reg, r.toNat ≤ x.toNat ∧ p = .reg r) s t) ∧
    (4096 ≤ effAddr s x.toNat →
      ∃ t, exec (.ldMemLoad x) s = .next t ∧ t.run = .faulted (.memOutOfBounds (max (effAddr s 0) 4096)) ∧
        FrameList [.run] s t)

/-- R105, R106: stored registers come back: a store, I set back, and a load of the same block leave every register as
it was. -/
def Obligations.StoreThenLoadRestoresRegisters : Prop :=
  ∀ (x : Reg) (s : State), effAddr s x.toNat < 4096 →
    ∃ t u, exec (.ldMemStore x) s = .next t ∧ exec (.ldMemLoad x) (t.setI s.i) = .next u ∧
      ∀ r, u.reg r = s.reg r

/-- R54, R152: code stored by FX55 is what the next fetch reads, if control is at it (the spec's decision D24). -/
def Obligations.StoredCodeIsFetched : Prop :=
  ∀ (x k : Reg) (s : State), effAddr s x.toNat < 4096 → k.toNat + 1 ≤ x.toNat → s.pc.toNat = effAddr s k.toNat →
    ∃ t, exec (.ldMemStore x) s = .next t ∧ fetchWord t = s.reg k ++ s.reg (k + 1)

/-! ## Display -/

/-- R108: CLS. -/
def Obligations.ClearScreen : Prop :=
  decode 0x00E0 = .ok .cls ∧
  ∀ s : State, ∃ t, exec .cls s = .next t ∧ (∀ x y, t.pixel x y = false) ∧
    Frame (fun p => ∃ x y, p = .pixel x y) s t

/-- R109, R110: DRW toggles the pixels its sprite lights, each wrapped by itself, leaves the others, and sets VF to
whether a set pixel was cleared; out of bounds it raises and does nothing else. The bit order and the per-pixel wrap
are the spec's decision D11, the coordinates read before VF is reset D10, the precise fault D4. -/
def Obligations.DrawTogglesSpritePixels : Prop :=
  ∀ (x y : Reg) (n : Nibble) (s : State), decode (0xD#4 ++ x ++ y ++ n) = .ok (.drw x y n) ∧
    (n.toNat = 0 ∨ effAddr s n.toNat ≤ 4096 →
      ∃ t, exec (.drw x y n) s = .next t ∧
        (∀ (px : Fin 64) (py : Fin 32),
          ((∃ row col, row < n.toNat ∧ col < 8 ∧ (s.byte (effAddr s row)).getLsbD (7 - col) = true ∧
              px.val = ((s.reg x).toNat + col) % 64 ∧ py.val = ((s.reg y).toNat + row) % 32) →
            t.pixel px py = !s.pixel px py) ∧
          ((¬ ∃ row col, row < n.toNat ∧ col < 8 ∧ (s.byte (effAddr s row)).getLsbD (7 - col) = true ∧
              px.val = ((s.reg x).toNat + col) % 64 ∧ py.val = ((s.reg y).toNat + row) % 32) →
            t.pixel px py = s.pixel px py)) ∧
        ((∃ px py, s.pixel px py = true ∧ t.pixel px py = false) → t.reg flagReg = 1) ∧
        ((¬ ∃ px py, s.pixel px py = true ∧ t.pixel px py = false) → t.reg flagReg = 0) ∧
        Frame (fun p => p = .reg flagReg ∨ ∃ px py, p = .pixel px py) s t) ∧
    (0 < n.toNat → 4096 < effAddr s n.toNat →
      ∃ t, exec (.drw x y n) s = .next t ∧ t.run = .faulted (.memOutOfBounds (max (effAddr s 0) 4096)) ∧
        FrameList [.run] s t)

/-- 95_test_vectors.md L1-3: the same sprite drawn twice at the same position restores the framebuffer. X and Y are not
F, because the first draw writes VF. -/
def Obligations.DrawTwiceRestoresFramebuffer : Prop :=
  ∀ (x y : Reg) (n : Nibble) (s : State), x ≠ flagReg → y ≠ flagReg → n.toNat = 0 ∨ effAddr s n.toNat ≤ 4096 →
    ∃ t u, exec (.drw x y n) s = .next t ∧ exec (.drw x y n) t = .next u ∧
      (∀ px py, u.pixel px py = s.pixel px py) ∧
      ((∀ px py, s.pixel px py = false) → (∃ px py, t.pixel px py = true) → u.reg flagReg = 1)

/-! ## Timers and keypad -/

/-- R112, R113, R118: SKP and SKNP on a key index up to 15 skip on the key's state; above 15 they raise
KeyIndexOutOfRange and do nothing else (the spec's decision D13). -/
def Obligations.KeySkips : Prop :=
  ∀ (x : Reg) (s : State),
    decode (0xE#4 ++ x ++ 0x9E#8) = .ok (.skp x) ∧ decode (0xE#4 ++ x ++ 0xA1#8) = .ok (.sknp x) ∧
    (∀ k : BitVec 4, (s.reg x).toNat = k.toNat →
      (∃ t, exec (.skp x) s = .next t ∧ t.pc = (if s.keyDown k then s.pc + 2 else s.pc) ∧ FrameList [.pc] s t) ∧
      ∃ t, exec (.sknp x) s = .next t ∧ t.pc = (if s.keyDown k then s.pc else s.pc + 2) ∧ FrameList [.pc] s t) ∧
    (15 < (s.reg x).toNat →
      (∃ t, exec (.skp x) s = .next t ∧ t.run = .faulted (.keyIndexOutOfRange (s.pc - 2) (s.reg x)) ∧
        FrameList [.run] s t) ∧
      ∃ t, exec (.sknp x) s = .next t ∧ t.run = .faulted (.keyIndexOutOfRange (s.pc - 2) (s.reg x)) ∧
        FrameList [.run] s t)

/-- R115: FX0A with a key pressed gives VX the lowest pressed key; with none it puts the pc back to its own address and
changes nothing else. Which key is taken is the spec's decision D12, that VX gets it is general knowledge by the spec's
own mark. -/
def Obligations.KeyWait : Prop :=
  ∀ (x : Reg) (s : State), decode (0xF#4 ++ x ++ 0x0A#8) = .ok (.ldVxK x) ∧
    (∀ k : BitVec 4, s.keyDown k = true → (∀ j : BitVec 4, j.toNat < k.toNat → s.keyDown j = false) →
      ∃ t, exec (.ldVxK x) s = .next t ∧ (t.reg x).toNat = k.toNat ∧ FrameList [.reg x] s t) ∧
    ((∀ k : BitVec 4, s.keyDown k = false) →
      ∃ t, exec (.ldVxK x) s = .next t ∧ t.pc = s.pc - 2 ∧ FrameList [.pc] s t)

/-- R115, R151: a step of a running core on FX0A with no key pressed changes nothing but the trace, so the same word
runs again next. -/
def Obligations.KeyWaitStepRepeats : Prop :=
  ∀ (x : Reg) (s : State), s.run = .running → s.pc.toNat + 1 < 4096 → fetchWord s = 0xF#4 ++ x ++ 0x0A#8 →
    (∀ k : BitVec 4, s.keyDown k = false) →
    ∃ t, step s = .next t ∧ FrameList [.trace] s t ∧ outcomeOut t = .cont

/-- R114, R116, R117: the timer registers are read and written whole. -/
def Obligations.TimerRegisterMoves : Prop :=
  ∀ (x : Reg) (s : State),
    decode (0xF#4 ++ x ++ 0x07#8) = .ok (.ldVxDT x) ∧ decode (0xF#4 ++ x ++ 0x15#8) = .ok (.ldDTVx x) ∧
    decode (0xF#4 ++ x ++ 0x18#8) = .ok (.ldSTVx x) ∧
    (∃ t, exec (.ldVxDT x) s = .next t ∧ t.reg x = s.dt ∧ FrameList [.reg x] s t) ∧
    (∃ t, exec (.ldDTVx x) s = .next t ∧ t.dt = s.reg x ∧ FrameList [.delay] s t) ∧
    ∃ t, exec (.ldSTVx x) s = .next t ∧ t.st = s.reg x ∧ (soundOn t = true ↔ s.reg x ≠ 0) ∧ FrameList [.sound] s t

/-! ## The host's moves -/

/-- R135, R32: a tick, in any run state, moves each timer toward zero, and nothing else. That one event ticks both is
the spec's decision D21. -/
def Obligations.TickMovesBothTimers : Prop :=
  ∀ s : State, (tick s).dt.toNat = s.dt.toNat - 1 ∧ (tick s).st.toNat = s.st.toNat - 1 ∧
    (soundOn (tick s) = true ↔ 2 ≤ s.st.toNat) ∧ FrameList [.delay, .sound] s (tick s)

/-- R34, R137: a keypad write sets each of the 16 keys to the one given, and changes nothing else. -/
def Obligations.KeypadWriteSetsKeys : Prop :=
  ∀ (keys : Vector Bool 16) (s : State),
    (∀ k : BitVec 4, (writeKeys keys s).keyDown k = keys[k.toNat]'k.isLt) ∧
    Frame (fun p => ∃ k, p = .key k) s (writeKeys keys s)

/-- R111, R33: the framebuffer read-out is row-major: its bit at y·64 + x is pixel (x, y), and it has 2048 bits. -/
def Obligations.FramebufferReadOut : Prop :=
  ∀ s : State, (fbOut s).toList.length = 2048 ∧
    ∀ (x : Fin 64) (y : Fin 32), (fbOut s)[y.val * 64 + x.val]? = some (s.pixel x y)

/-- R144, R145, R126: a load of at most 3584 bytes copies them to 0x200 up and sets the pc to 0x200, and changes
nothing else; a longer image makes load return LoadError, which carries no state: nothing is written. That the error
carries the image's length is the model's choice (log entry 18), and no rule of the spec. -/
def Obligations.LoadCopiesOrFails : Prop :=
  ∀ (bytes : List Byte) (s : State),
    (bytes.length ≤ 3584 →
      ∃ t, load bytes s = .ok t ∧ t.pc = 0x200 ∧
        (∀ j (h : j < bytes.length), t.byte (0x200 + j) = bytes[j]) ∧
        Frame (fun p => p = .pc ∨ ∃ j, j < bytes.length ∧ p = .byte (0x200 + j)) s t) ∧
    (3584 < bytes.length → load bytes s = .error (.tooLong bytes.length))

/-- R37, R142: the state after construction, for every choice of the parameters. The pc is the spec's decision D16, the
trace D20, the run state D18, the keypad D17. -/
def Obligations.ResetValues : Prop :=
  ∀ c : Config,
    (∀ a, a < 0x100 → (State.resetWith c).byte a = 0) ∧
    (∀ j (h : j < 80), (State.resetWith c).byte (0x100 + j) = c.font[j]) ∧
    (∀ a, 0x150 ≤ a → a < 4096 → (State.resetWith c).byte a = 0) ∧
    (∀ r, (State.resetWith c).reg r = 0) ∧ (State.resetWith c).i = 0 ∧ (State.resetWith c).pc = 0x200 ∧
    (State.resetWith c).stack = [] ∧ (State.resetWith c).dt = 0 ∧ (State.resetWith c).st = 0 ∧
    (∀ x y, (State.resetWith c).pixel x y = false) ∧ (State.resetWith c).trace = [] ∧
    (State.resetWith c).run = .running ∧ (∀ k, (State.resetWith c).keyDown k = false) ∧
    soundOn (State.resetWith c) = false

/-- R143: the reset input gives the state of construction, whatever the run state was, but for the numbering of random
draws, which goes on (the model's own field, log entry 1). That reset clears memory is the spec's decision D29. -/
def Obligations.ResetInputConstructs : Prop :=
  ∀ s : State, (hostReset s).draws = s.draws ∧
    FrameList [.draws] (State.resetWith s.cfg) (hostReset s) ∧ (hostReset s).run = .running

/-- R147, R76: with no program loaded the first step halts, at 0x200, for every choice of the parameters. The
pc and the run state at reset are the spec's decisions D16 and D18. -/
def Obligations.FirstStepWithoutProgramHalts : Prop :=
  ∀ c : Config, ∃ t, step (State.resetWith c) = .next t ∧ t.run = .halted ∧ t.pc = 0x202 ∧ t.trace = [0x0000] ∧
    FrameList [.run, .pc, .trace] (State.resetWith c) t

/-! ## The whole machine -/

/-- State.Inv holds at construction with a depth of at least 1. -/
def Obligations.InvariantAtReset : Prop :=
  ∀ c : Config, c.WellFormed → (State.resetWith c).Inv

/-- R21, R24, R28, R35, R119: every step keeps State.Inv: canonical memory inside 0..4095, the stack within its depth
and holding addresses after words, the pc at most 0x10FE, the trace within 14, faults with their records. The
depth, the trace's length and the faults past the source's two are the spec's decisions D6, D20, D4, D7 and D13. -/
def Obligations.StepKeepsInvariant : Prop :=
  ∀ s t : State, s.Inv → step s = .next t → t.Inv

/-- R137, R143, R144, R135, R34: each move of the host keeps State.Inv, from every state that meets it: a reset, a load,
a tick, a keypad write. So State.Inv holds in every state of Reached, and the parameters are as at construction.
Reached is the model's choice (log entry 8): steps of a running core, ticks, keypad writes and resets in any order, and
after each reset at most one load, before the first step; a step before the load is let in. -/
def Obligations.HostMovesKeepInvariant : Prop :=
  (∀ s : State, s.Inv →
    (hostReset s).Inv ∧ (tick s).Inv ∧ (∀ keys, (writeKeys keys s).Inv) ∧
    ∀ bytes t, load bytes s = .ok t → t.Inv) ∧
  ∀ (c : Config) (ph : LoadPhase) (s : State), c.WellFormed → Reached c ph s → s.Inv ∧ s.cfg = c

/-- R14, R19, R20, R27, R31, R33, R34, R42, R119: each instruction answers a next state in every state, and changes
only the pieces the spec's tables let it write. If R119 gives it a fault there, the run state is that fault; if not, the
run state is as it was, but for HALT. That a raising instruction answers a next state is the model's choice (log
entry 4). -/
def Obligations.EveryInstructionKeepsItsFrame : Prop :=
  ∀ (i : Instr) (s : State), ∃ t, exec i s = .next t ∧ Frame (writes i s) s t ∧
    (∀ e, ExecFault i (s.pc - 2) s e → t.run = .faulted e) ∧
    ((∀ e, ¬ ExecFault i (s.pc - 2) s e) → t.run = (if i = .halt then .halted else s.run))

/-- R13, R43, R119, R128: an instruction to which R119 gives a fault raises that fault and leaves everything but the run
state as it was; and an instruction of a running core that raises does so with the fault R119 gives it, and leaves
everything but the run state as it was. Precise faults are the spec's decision D4; that a raise answers a next state is
the model's choice (log entry 4). -/
def Obligations.ExecuteFaultsArePrecise : Prop :=
  ∀ (i : Instr) (s : State) (e : Fault),
    (ExecFault i (s.pc - 2) s e →
      ∃ t, exec i s = .next t ∧ t.run = .faulted e ∧ FrameList [.run] s t) ∧
    ∀ t, s.run = .running → exec i s = .next t → t.run = .faulted e →
      ExecFault i (s.pc - 2) s e ∧ FrameList [.run] s t

/-- R19, R42, R20, R27, R31, R33, R34: through a whole step only the instructions of R19's table write a general
register; only FX33 and FX55 change memory, and only at I + k; only R20's instructions I; only CALL and RET the stack;
only FX15 DT and only FX18 ST; only CLS and DRW a pixel; nothing the keypad or the parameters. -/
def Obligations.OnlyTheirWritersChangeState : Prop :=
  ∀ s t : State, step s = .next t →
    (∀ r : Reg, t.reg r ≠ s.reg r → ∃ i, decode (fetchWord s) = .ok i ∧ writesReg i r) ∧
    (∀ a, t.byte a ≠ s.byte a → ∃ i, decode (fetchWord s) = .ok i ∧ writesByte i s a) ∧
    (t.i ≠ s.i → ∃ i, decode (fetchWord s) = .ok i ∧ writesIndex i) ∧
    (t.stack ≠ s.stack → ∃ i, decode (fetchWord s) = .ok i ∧ writesStack i) ∧
    (t.dt ≠ s.dt → ∃ x, decode (fetchWord s) = .ok (.ldDTVx x)) ∧
    (t.st ≠ s.st → ∃ x, decode (fetchWord s) = .ok (.ldSTVx x)) ∧
    (∀ x y, t.pixel x y ≠ s.pixel x y → ∃ i, decode (fetchWord s) = .ok i ∧ writesPixels i) ∧
    (∀ k, t.keyDown k = s.keyDown k) ∧ t.cfg = s.cfg

/-- R35: the trace has no effect on execution: two runs of a step that differ only in the trace agree in everything but
the trace. -/
def Obligations.TraceHasNoEffect : Prop :=
  ∀ (s : State) (l : List Word),
    (∀ t, step s = .next t → ∃ l', step (s.setTrace l) = .next (t.setTrace l')) ∧
    ∀ e, step s = .fault e → step (s.setTrace l) = .fault e

/-- R98: CXNN is the only reader of the random byte: a step on any other word is the same whatever draw comes next. The
numbering of draws is the model's own (log entry 1; the spec's decision D14). -/
def Obligations.OnlyRandomReadsTheDraw : Prop :=
  ∀ (s t : State) (d : Nat), (∀ x nn, decode (fetchWord s) ≠ .ok (.rnd x nn)) → step s = .next t →
    t.draws = s.draws ∧ step (s.setDraws d) = .next (t.setDraws d)
end

