-- ==== Sys2Proof/Laws/State.lean ====
section
/-! SUPPORT. One lemma for each field under each update of the state, and for each named read: every update writes one
field and leaves the others. -/

namespace Sys2Proof.Machine

/-! ## The named constants of R8 -/

@[simp] theorem memSize_eq : Config.memSize = 4096 := rfl
@[simp] theorem fontBase_eq : Config.fontBase = 0x100 := rfl
@[simp] theorem programBase_eq : Config.programBase = 0x200 := rfl
@[simp] theorem maxRom_eq : Config.maxRom = 3584 := rfl
@[simp] theorem traceDepth_eq : Config.traceDepth = 14 := rfl
theorem numV_eq : Config.numV = 16 := rfl
theorem numKeys_eq : Config.numKeys = 16 := rfl
theorem insnStep_eq : insnStep = 2 := rfl
theorem fbW_eq : Config.fbW = 64 := rfl
theorem fbH_eq : Config.fbH = 32 := rfl

/-- The widths of R8 are those of the types that hold V0..VF and the timers, and I and the pc (R10). -/
theorem Config.register_widths :
    Byte = BitVec Config.vWidth ∧ Byte = BitVec Config.timerWidth ∧
    Word = BitVec Config.iWidth ∧ Word = BitVec Config.pcWidth := ⟨rfl, rfl, rfl, rfl⟩

variable (s : State)

/-! ## setReg -/

@[simp] theorem State.setReg_cfg (x : Reg) (b : Byte) : (s.setReg x b).cfg = s.cfg := rfl
@[simp] theorem State.setReg_mem (x : Reg) (b : Byte) : (s.setReg x b).mem = s.mem := rfl
@[simp] theorem State.setReg_i (x : Reg) (b : Byte) : (s.setReg x b).i = s.i := rfl
@[simp] theorem State.setReg_pc (x : Reg) (b : Byte) : (s.setReg x b).pc = s.pc := rfl
@[simp] theorem State.setReg_stack (x : Reg) (b : Byte) : (s.setReg x b).stack = s.stack := rfl
@[simp] theorem State.setReg_dt (x : Reg) (b : Byte) : (s.setReg x b).dt = s.dt := rfl
@[simp] theorem State.setReg_st (x : Reg) (b : Byte) : (s.setReg x b).st = s.st := rfl
@[simp] theorem State.setReg_fb (x : Reg) (b : Byte) : (s.setReg x b).fb = s.fb := rfl
@[simp] theorem State.setReg_trace (x : Reg) (b : Byte) : (s.setReg x b).trace = s.trace := rfl
@[simp] theorem State.setReg_run (x : Reg) (b : Byte) : (s.setReg x b).run = s.run := rfl
@[simp] theorem State.setReg_key (x : Reg) (b : Byte) : (s.setReg x b).key = s.key := rfl
@[simp] theorem State.setReg_draws (x : Reg) (b : Byte) : (s.setReg x b).draws = s.draws := rfl
@[simp] theorem State.setReg_byte (x : Reg) (b : Byte) (q : Nat) : (s.setReg x b).byte q = s.byte q := rfl
@[simp] theorem State.setReg_pixel (x : Reg) (b : Byte) (p : Fin 64) (q : Fin 32) : (s.setReg x b).pixel p q = s.pixel p q := rfl
@[simp] theorem State.setReg_keyDown (x : Reg) (b : Byte) (q : BitVec 4) : (s.setReg x b).keyDown q = s.keyDown q := rfl

/-! ## setI -/

@[simp] theorem State.setI_cfg (a : Word) : (s.setI a).cfg = s.cfg := rfl
@[simp] theorem State.setI_mem (a : Word) : (s.setI a).mem = s.mem := rfl
@[simp] theorem State.setI_v (a : Word) : (s.setI a).v = s.v := rfl
@[simp] theorem State.setI_i (a : Word) : (s.setI a).i = a := rfl
@[simp] theorem State.setI_pc (a : Word) : (s.setI a).pc = s.pc := rfl
@[simp] theorem State.setI_stack (a : Word) : (s.setI a).stack = s.stack := rfl
@[simp] theorem State.setI_dt (a : Word) : (s.setI a).dt = s.dt := rfl
@[simp] theorem State.setI_st (a : Word) : (s.setI a).st = s.st := rfl
@[simp] theorem State.setI_fb (a : Word) : (s.setI a).fb = s.fb := rfl
@[simp] theorem State.setI_trace (a : Word) : (s.setI a).trace = s.trace := rfl
@[simp] theorem State.setI_run (a : Word) : (s.setI a).run = s.run := rfl
@[simp] theorem State.setI_key (a : Word) : (s.setI a).key = s.key := rfl
@[simp] theorem State.setI_draws (a : Word) : (s.setI a).draws = s.draws := rfl
@[simp] theorem State.setI_reg (a : Word) (r : Reg) : (s.setI a).reg r = s.reg r := rfl
@[simp] theorem State.setI_byte (a : Word) (q : Nat) : (s.setI a).byte q = s.byte q := rfl
@[simp] theorem State.setI_pixel (a : Word) (p : Fin 64) (q : Fin 32) : (s.setI a).pixel p q = s.pixel p q := rfl
@[simp] theorem State.setI_keyDown (a : Word) (q : BitVec 4) : (s.setI a).keyDown q = s.keyDown q := rfl

/-! ## setPc -/

@[simp] theorem State.setPc_cfg (a : Word) : (s.setPc a).cfg = s.cfg := rfl
@[simp] theorem State.setPc_mem (a : Word) : (s.setPc a).mem = s.mem := rfl
@[simp] theorem State.setPc_v (a : Word) : (s.setPc a).v = s.v := rfl
@[simp] theorem State.setPc_i (a : Word) : (s.setPc a).i = s.i := rfl
@[simp] theorem State.setPc_pc (a : Word) : (s.setPc a).pc = a := rfl
@[simp] theorem State.setPc_stack (a : Word) : (s.setPc a).stack = s.stack := rfl
@[simp] theorem State.setPc_dt (a : Word) : (s.setPc a).dt = s.dt := rfl
@[simp] theorem State.setPc_st (a : Word) : (s.setPc a).st = s.st := rfl
@[simp] theorem State.setPc_fb (a : Word) : (s.setPc a).fb = s.fb := rfl
@[simp] theorem State.setPc_trace (a : Word) : (s.setPc a).trace = s.trace := rfl
@[simp] theorem State.setPc_run (a : Word) : (s.setPc a).run = s.run := rfl
@[simp] theorem State.setPc_key (a : Word) : (s.setPc a).key = s.key := rfl
@[simp] theorem State.setPc_draws (a : Word) : (s.setPc a).draws = s.draws := rfl
@[simp] theorem State.setPc_reg (a : Word) (r : Reg) : (s.setPc a).reg r = s.reg r := rfl
@[simp] theorem State.setPc_byte (a : Word) (q : Nat) : (s.setPc a).byte q = s.byte q := rfl
@[simp] theorem State.setPc_pixel (a : Word) (p : Fin 64) (q : Fin 32) : (s.setPc a).pixel p q = s.pixel p q := rfl
@[simp] theorem State.setPc_keyDown (a : Word) (q : BitVec 4) : (s.setPc a).keyDown q = s.keyDown q := rfl

/-! ## setStack -/

@[simp] theorem State.setStack_cfg (l : List Word) : (s.setStack l).cfg = s.cfg := rfl
@[simp] theorem State.setStack_mem (l : List Word) : (s.setStack l).mem = s.mem := rfl
@[simp] theorem State.setStack_v (l : List Word) : (s.setStack l).v = s.v := rfl
@[simp] theorem State.setStack_i (l : List Word) : (s.setStack l).i = s.i := rfl
@[simp] theorem State.setStack_pc (l : List Word) : (s.setStack l).pc = s.pc := rfl
@[simp] theorem State.setStack_stack (l : List Word) : (s.setStack l).stack = l := rfl
@[simp] theorem State.setStack_dt (l : List Word) : (s.setStack l).dt = s.dt := rfl
@[simp] theorem State.setStack_st (l : List Word) : (s.setStack l).st = s.st := rfl
@[simp] theorem State.setStack_fb (l : List Word) : (s.setStack l).fb = s.fb := rfl
@[simp] theorem State.setStack_trace (l : List Word) : (s.setStack l).trace = s.trace := rfl
@[simp] theorem State.setStack_run (l : List Word) : (s.setStack l).run = s.run := rfl
@[simp] theorem State.setStack_key (l : List Word) : (s.setStack l).key = s.key := rfl
@[simp] theorem State.setStack_draws (l : List Word) : (s.setStack l).draws = s.draws := rfl
@[simp] theorem State.setStack_reg (l : List Word) (r : Reg) : (s.setStack l).reg r = s.reg r := rfl
@[simp] theorem State.setStack_byte (l : List Word) (q : Nat) : (s.setStack l).byte q = s.byte q := rfl
@[simp] theorem State.setStack_pixel (l : List Word) (p : Fin 64) (q : Fin 32) : (s.setStack l).pixel p q = s.pixel p q := rfl
@[simp] theorem State.setStack_keyDown (l : List Word) (q : BitVec 4) : (s.setStack l).keyDown q = s.keyDown q := rfl

/-! ## setDt -/

@[simp] theorem State.setDt_cfg (b : Byte) : (s.setDt b).cfg = s.cfg := rfl
@[simp] theorem State.setDt_mem (b : Byte) : (s.setDt b).mem = s.mem := rfl
@[simp] theorem State.setDt_v (b : Byte) : (s.setDt b).v = s.v := rfl
@[simp] theorem State.setDt_i (b : Byte) : (s.setDt b).i = s.i := rfl
@[simp] theorem State.setDt_pc (b : Byte) : (s.setDt b).pc = s.pc := rfl
@[simp] theorem State.setDt_stack (b : Byte) : (s.setDt b).stack = s.stack := rfl
@[simp] theorem State.setDt_dt (b : Byte) : (s.setDt b).dt = b := rfl
@[simp] theorem State.setDt_st (b : Byte) : (s.setDt b).st = s.st := rfl
@[simp] theorem State.setDt_fb (b : Byte) : (s.setDt b).fb = s.fb := rfl
@[simp] theorem State.setDt_trace (b : Byte) : (s.setDt b).trace = s.trace := rfl
@[simp] theorem State.setDt_run (b : Byte) : (s.setDt b).run = s.run := rfl
@[simp] theorem State.setDt_key (b : Byte) : (s.setDt b).key = s.key := rfl
@[simp] theorem State.setDt_draws (b : Byte) : (s.setDt b).draws = s.draws := rfl
@[simp] theorem State.setDt_reg (b : Byte) (r : Reg) : (s.setDt b).reg r = s.reg r := rfl
@[simp] theorem State.setDt_byte (b : Byte) (q : Nat) : (s.setDt b).byte q = s.byte q := rfl
@[simp] theorem State.setDt_pixel (b : Byte) (p : Fin 64) (q : Fin 32) : (s.setDt b).pixel p q = s.pixel p q := rfl
@[simp] theorem State.setDt_keyDown (b : Byte) (q : BitVec 4) : (s.setDt b).keyDown q = s.keyDown q := rfl

/-! ## setSt -/

@[simp] theorem State.setSt_cfg (b : Byte) : (s.setSt b).cfg = s.cfg := rfl
@[simp] theorem State.setSt_mem (b : Byte) : (s.setSt b).mem = s.mem := rfl
@[simp] theorem State.setSt_v (b : Byte) : (s.setSt b).v = s.v := rfl
@[simp] theorem State.setSt_i (b : Byte) : (s.setSt b).i = s.i := rfl
@[simp] theorem State.setSt_pc (b : Byte) : (s.setSt b).pc = s.pc := rfl
@[simp] theorem State.setSt_stack (b : Byte) : (s.setSt b).stack = s.stack := rfl
@[simp] theorem State.setSt_dt (b : Byte) : (s.setSt b).dt = s.dt := rfl
@[simp] theorem State.setSt_st (b : Byte) : (s.setSt b).st = b := rfl
@[simp] theorem State.setSt_fb (b : Byte) : (s.setSt b).fb = s.fb := rfl
@[simp] theorem State.setSt_trace (b : Byte) : (s.setSt b).trace = s.trace := rfl
@[simp] theorem State.setSt_run (b : Byte) : (s.setSt b).run = s.run := rfl
@[simp] theorem State.setSt_key (b : Byte) : (s.setSt b).key = s.key := rfl
@[simp] theorem State.setSt_draws (b : Byte) : (s.setSt b).draws = s.draws := rfl
@[simp] theorem State.setSt_reg (b : Byte) (r : Reg) : (s.setSt b).reg r = s.reg r := rfl
@[simp] theorem State.setSt_byte (b : Byte) (q : Nat) : (s.setSt b).byte q = s.byte q := rfl
@[simp] theorem State.setSt_pixel (b : Byte) (p : Fin 64) (q : Fin 32) : (s.setSt b).pixel p q = s.pixel p q := rfl
@[simp] theorem State.setSt_keyDown (b : Byte) (q : BitVec 4) : (s.setSt b).keyDown q = s.keyDown q := rfl

/-! ## setFb -/

@[simp] theorem State.setFb_cfg (f : Framebuffer) : (s.setFb f).cfg = s.cfg := rfl
@[simp] theorem State.setFb_mem (f : Framebuffer) : (s.setFb f).mem = s.mem := rfl
@[simp] theorem State.setFb_v (f : Framebuffer) : (s.setFb f).v = s.v := rfl
@[simp] theorem State.setFb_i (f : Framebuffer) : (s.setFb f).i = s.i := rfl
@[simp] theorem State.setFb_pc (f : Framebuffer) : (s.setFb f).pc = s.pc := rfl
@[simp] theorem State.setFb_stack (f : Framebuffer) : (s.setFb f).stack = s.stack := rfl
@[simp] theorem State.setFb_dt (f : Framebuffer) : (s.setFb f).dt = s.dt := rfl
@[simp] theorem State.setFb_st (f : Framebuffer) : (s.setFb f).st = s.st := rfl
@[simp] theorem State.setFb_fb (f : Framebuffer) : (s.setFb f).fb = f := rfl
@[simp] theorem State.setFb_trace (f : Framebuffer) : (s.setFb f).trace = s.trace := rfl
@[simp] theorem State.setFb_run (f : Framebuffer) : (s.setFb f).run = s.run := rfl
@[simp] theorem State.setFb_key (f : Framebuffer) : (s.setFb f).key = s.key := rfl
@[simp] theorem State.setFb_draws (f : Framebuffer) : (s.setFb f).draws = s.draws := rfl
@[simp] theorem State.setFb_reg (f : Framebuffer) (r : Reg) : (s.setFb f).reg r = s.reg r := rfl
@[simp] theorem State.setFb_byte (f : Framebuffer) (q : Nat) : (s.setFb f).byte q = s.byte q := rfl
@[simp] theorem State.setFb_keyDown (f : Framebuffer) (q : BitVec 4) : (s.setFb f).keyDown q = s.keyDown q := rfl

/-! ## setMem -/

@[simp] theorem State.setMem_cfg (m : Memory) : (s.setMem m).cfg = s.cfg := rfl
@[simp] theorem State.setMem_mem (m : Memory) : (s.setMem m).mem = m := rfl
@[simp] theorem State.setMem_v (m : Memory) : (s.setMem m).v = s.v := rfl
@[simp] theorem State.setMem_i (m : Memory) : (s.setMem m).i = s.i := rfl
@[simp] theorem State.setMem_pc (m : Memory) : (s.setMem m).pc = s.pc := rfl
@[simp] theorem State.setMem_stack (m : Memory) : (s.setMem m).stack = s.stack := rfl
@[simp] theorem State.setMem_dt (m : Memory) : (s.setMem m).dt = s.dt := rfl
@[simp] theorem State.setMem_st (m : Memory) : (s.setMem m).st = s.st := rfl
@[simp] theorem State.setMem_fb (m : Memory) : (s.setMem m).fb = s.fb := rfl
@[simp] theorem State.setMem_trace (m : Memory) : (s.setMem m).trace = s.trace := rfl
@[simp] theorem State.setMem_run (m : Memory) : (s.setMem m).run = s.run := rfl
@[simp] theorem State.setMem_key (m : Memory) : (s.setMem m).key = s.key := rfl
@[simp] theorem State.setMem_draws (m : Memory) : (s.setMem m).draws = s.draws := rfl
@[simp] theorem State.setMem_reg (m : Memory) (r : Reg) : (s.setMem m).reg r = s.reg r := rfl
@[simp] theorem State.setMem_pixel (m : Memory) (p : Fin 64) (q : Fin 32) : (s.setMem m).pixel p q = s.pixel p q := rfl
@[simp] theorem State.setMem_keyDown (m : Memory) (q : BitVec 4) : (s.setMem m).keyDown q = s.keyDown q := rfl

/-! ## setTrace -/

@[simp] theorem State.setTrace_cfg (l : List Word) : (s.setTrace l).cfg = s.cfg := rfl
@[simp] theorem State.setTrace_mem (l : List Word) : (s.setTrace l).mem = s.mem := rfl
@[simp] theorem State.setTrace_v (l : List Word) : (s.setTrace l).v = s.v := rfl
@[simp] theorem State.setTrace_i (l : List Word) : (s.setTrace l).i = s.i := rfl
@[simp] theorem State.setTrace_pc (l : List Word) : (s.setTrace l).pc = s.pc := rfl
@[simp] theorem State.setTrace_stack (l : List Word) : (s.setTrace l).stack = s.stack := rfl
@[simp] theorem State.setTrace_dt (l : List Word) : (s.setTrace l).dt = s.dt := rfl
@[simp] theorem State.setTrace_st (l : List Word) : (s.setTrace l).st = s.st := rfl
@[simp] theorem State.setTrace_fb (l : List Word) : (s.setTrace l).fb = s.fb := rfl
@[simp] theorem State.setTrace_trace (l : List Word) : (s.setTrace l).trace = l := rfl
@[simp] theorem State.setTrace_run (l : List Word) : (s.setTrace l).run = s.run := rfl
@[simp] theorem State.setTrace_key (l : List Word) : (s.setTrace l).key = s.key := rfl
@[simp] theorem State.setTrace_draws (l : List Word) : (s.setTrace l).draws = s.draws := rfl
@[simp] theorem State.setTrace_reg (l : List Word) (r : Reg) : (s.setTrace l).reg r = s.reg r := rfl
@[simp] theorem State.setTrace_byte (l : List Word) (q : Nat) : (s.setTrace l).byte q = s.byte q := rfl
@[simp] theorem State.setTrace_pixel (l : List Word) (p : Fin 64) (q : Fin 32) : (s.setTrace l).pixel p q = s.pixel p q := rfl
@[simp] theorem State.setTrace_keyDown (l : List Word) (q : BitVec 4) : (s.setTrace l).keyDown q = s.keyDown q := rfl

/-! ## setRun -/

@[simp] theorem State.setRun_cfg (e : RunState) : (s.setRun e).cfg = s.cfg := rfl
@[simp] theorem State.setRun_mem (e : RunState) : (s.setRun e).mem = s.mem := rfl
@[simp] theorem State.setRun_v (e : RunState) : (s.setRun e).v = s.v := rfl
@[simp] theorem State.setRun_i (e : RunState) : (s.setRun e).i = s.i := rfl
@[simp] theorem State.setRun_pc (e : RunState) : (s.setRun e).pc = s.pc := rfl
@[simp] theorem State.setRun_stack (e : RunState) : (s.setRun e).stack = s.stack := rfl
@[simp] theorem State.setRun_dt (e : RunState) : (s.setRun e).dt = s.dt := rfl
@[simp] theorem State.setRun_st (e : RunState) : (s.setRun e).st = s.st := rfl
@[simp] theorem State.setRun_fb (e : RunState) : (s.setRun e).fb = s.fb := rfl
@[simp] theorem State.setRun_trace (e : RunState) : (s.setRun e).trace = s.trace := rfl
@[simp] theorem State.setRun_run (e : RunState) : (s.setRun e).run = e := rfl
@[simp] theorem State.setRun_key (e : RunState) : (s.setRun e).key = s.key := rfl
@[simp] theorem State.setRun_draws (e : RunState) : (s.setRun e).draws = s.draws := rfl
@[simp] theorem State.setRun_reg (e : RunState) (r : Reg) : (s.setRun e).reg r = s.reg r := rfl
@[simp] theorem State.setRun_byte (e : RunState) (q : Nat) : (s.setRun e).byte q = s.byte q := rfl
@[simp] theorem State.setRun_pixel (e : RunState) (p : Fin 64) (q : Fin 32) : (s.setRun e).pixel p q = s.pixel p q := rfl
@[simp] theorem State.setRun_keyDown (e : RunState) (q : BitVec 4) : (s.setRun e).keyDown q = s.keyDown q := rfl

/-! ## setKeys -/

@[simp] theorem State.setKeys_cfg (k : Vector Bool 16) : (s.setKeys k).cfg = s.cfg := rfl
@[simp] theorem State.setKeys_mem (k : Vector Bool 16) : (s.setKeys k).mem = s.mem := rfl
@[simp] theorem State.setKeys_v (k : Vector Bool 16) : (s.setKeys k).v = s.v := rfl
@[simp] theorem State.setKeys_i (k : Vector Bool 16) : (s.setKeys k).i = s.i := rfl
@[simp] theorem State.setKeys_pc (k : Vector Bool 16) : (s.setKeys k).pc = s.pc := rfl
@[simp] theorem State.setKeys_stack (k : Vector Bool 16) : (s.setKeys k).stack = s.stack := rfl
@[simp] theorem State.setKeys_dt (k : Vector Bool 16) : (s.setKeys k).dt = s.dt := rfl
@[simp] theorem State.setKeys_st (k : Vector Bool 16) : (s.setKeys k).st = s.st := rfl
@[simp] theorem State.setKeys_fb (k : Vector Bool 16) : (s.setKeys k).fb = s.fb := rfl
@[simp] theorem State.setKeys_trace (k : Vector Bool 16) : (s.setKeys k).trace = s.trace := rfl
@[simp] theorem State.setKeys_run (k : Vector Bool 16) : (s.setKeys k).run = s.run := rfl
@[simp] theorem State.setKeys_key (k : Vector Bool 16) : (s.setKeys k).key = k := rfl
@[simp] theorem State.setKeys_draws (k : Vector Bool 16) : (s.setKeys k).draws = s.draws := rfl
@[simp] theorem State.setKeys_reg (k : Vector Bool 16) (r : Reg) : (s.setKeys k).reg r = s.reg r := rfl
@[simp] theorem State.setKeys_byte (k : Vector Bool 16) (q : Nat) : (s.setKeys k).byte q = s.byte q := rfl
@[simp] theorem State.setKeys_pixel (k : Vector Bool 16) (p : Fin 64) (q : Fin 32) : (s.setKeys k).pixel p q = s.pixel p q := rfl

/-! ## setDraws -/

@[simp] theorem State.setDraws_cfg (n : Nat) : (s.setDraws n).cfg = s.cfg := rfl
@[simp] theorem State.setDraws_mem (n : Nat) : (s.setDraws n).mem = s.mem := rfl
@[simp] theorem State.setDraws_v (n : Nat) : (s.setDraws n).v = s.v := rfl
@[simp] theorem State.setDraws_i (n : Nat) : (s.setDraws n).i = s.i := rfl
@[simp] theorem State.setDraws_pc (n : Nat) : (s.setDraws n).pc = s.pc := rfl
@[simp] theorem State.setDraws_stack (n : Nat) : (s.setDraws n).stack = s.stack := rfl
@[simp] theorem State.setDraws_dt (n : Nat) : (s.setDraws n).dt = s.dt := rfl
@[simp] theorem State.setDraws_st (n : Nat) : (s.setDraws n).st = s.st := rfl
@[simp] theorem State.setDraws_fb (n : Nat) : (s.setDraws n).fb = s.fb := rfl
@[simp] theorem State.setDraws_trace (n : Nat) : (s.setDraws n).trace = s.trace := rfl
@[simp] theorem State.setDraws_run (n : Nat) : (s.setDraws n).run = s.run := rfl
@[simp] theorem State.setDraws_key (n : Nat) : (s.setDraws n).key = s.key := rfl
@[simp] theorem State.setDraws_draws (n : Nat) : (s.setDraws n).draws = n := rfl
@[simp] theorem State.setDraws_reg (n : Nat) (r : Reg) : (s.setDraws n).reg r = s.reg r := rfl
@[simp] theorem State.setDraws_byte (n : Nat) (q : Nat) : (s.setDraws n).byte q = s.byte q := rfl
@[simp] theorem State.setDraws_pixel (n : Nat) (p : Fin 64) (q : Fin 32) : (s.setDraws n).pixel p q = s.pixel p q := rfl
@[simp] theorem State.setDraws_keyDown (n : Nat) (q : BitVec 4) : (s.setDraws n).keyDown q = s.keyDown q := rfl

/-! ## setByte -/

@[simp] theorem State.setByte_cfg (a : Nat) (b : Byte) : (s.setByte a b).cfg = s.cfg := rfl
@[simp] theorem State.setByte_v (a : Nat) (b : Byte) : (s.setByte a b).v = s.v := rfl
@[simp] theorem State.setByte_i (a : Nat) (b : Byte) : (s.setByte a b).i = s.i := rfl
@[simp] theorem State.setByte_pc (a : Nat) (b : Byte) : (s.setByte a b).pc = s.pc := rfl
@[simp] theorem State.setByte_stack (a : Nat) (b : Byte) : (s.setByte a b).stack = s.stack := rfl
@[simp] theorem State.setByte_dt (a : Nat) (b : Byte) : (s.setByte a b).dt = s.dt := rfl
@[simp] theorem State.setByte_st (a : Nat) (b : Byte) : (s.setByte a b).st = s.st := rfl
@[simp] theorem State.setByte_fb (a : Nat) (b : Byte) : (s.setByte a b).fb = s.fb := rfl
@[simp] theorem State.setByte_trace (a : Nat) (b : Byte) : (s.setByte a b).trace = s.trace := rfl
@[simp] theorem State.setByte_run (a : Nat) (b : Byte) : (s.setByte a b).run = s.run := rfl
@[simp] theorem State.setByte_key (a : Nat) (b : Byte) : (s.setByte a b).key = s.key := rfl
@[simp] theorem State.setByte_draws (a : Nat) (b : Byte) : (s.setByte a b).draws = s.draws := rfl
@[simp] theorem State.setByte_reg (a : Nat) (b : Byte) (r : Reg) : (s.setByte a b).reg r = s.reg r := rfl
@[simp] theorem State.setByte_pixel (a : Nat) (b : Byte) (p : Fin 64) (q : Fin 32) :
    (s.setByte a b).pixel p q = s.pixel p q := rfl
@[simp] theorem State.setByte_keyDown (a : Nat) (b : Byte) (q : BitVec 4) : (s.setByte a b).keyDown q = s.keyDown q := rfl

/-! ## A register after a write of a register -/

/-- V0..VF after a write (R17): the written one holds the value, the others are as before. -/
theorem State.setReg_reg (x r : Reg) (b : Byte) : (s.setReg x b).reg r = if r = x then b else s.reg r := by
  unfold State.reg State.setReg
  by_cases h : r = x
  · subst h; simp
  · have : x.toNat ≠ r.toNat := fun e => h (BitVec.eq_of_toNat_eq e.symm)
    simp [h, this]

@[simp] theorem State.setReg_reg_same (x : Reg) (b : Byte) : (s.setReg x b).reg x = b := by
  simp [State.setReg_reg]

theorem State.setReg_reg_ne {x r : Reg} (b : Byte) (h : r ≠ x) : (s.setReg x b).reg r = s.reg r := by
  simp [State.setReg_reg, h]

end Sys2Proof.Machine
end

