-- ==== Sys2Proof/Laws/Memory.lean ====
section
/-! SUPPORT. Memory: a read after a write (spec R45, R50), and the canonical form that every memory operation keeps. -/

namespace Sys2Proof.Machine

/-! ## The content at reset -/

theorem resetByte_low (font : Vector Byte 80) {a : Nat} (h : a < 0x100) : resetByte font a = 0 := by
  simp only [resetByte, fontBase_eq]
  rw [if_neg (by omega)]

theorem resetByte_font (font : Vector Byte 80) {j : Nat} (h : j < 80) : resetByte font (0x100 + j) = font[j] := by
  simp only [resetByte, fontBase_eq]
  rw [if_pos (by omega)]
  simp [h]

theorem resetByte_high (font : Vector Byte 80) {a : Nat} (h : 0x150 ≤ a) : resetByte font a = 0 := by
  simp only [resetByte, fontBase_eq]
  rw [if_pos (by omega), Vector.getElem?_eq_none (by omega)]
  rfl

/-! ## Reads -/

theorem Memory.find_put (a c : Nat) (v : Byte) (m : Memory) :
    Memory.find (Memory.put a v m) c = if c = a then some v else Memory.find m c := by
  induction m with
  | nil => simp [Memory.put, Memory.find]
  | cons cell m ih =>
    obtain ⟨b, w⟩ := cell
    unfold Memory.put
    split
    · simp [Memory.find]
    · split
      · next h => subst h; by_cases h' : c = a <;> simp [Memory.find, h']
      · next h =>
        by_cases hc : c = b
        · subst hc; simp [Memory.find, Ne.symm h]
        · simp [Memory.find, hc, ih]

theorem Memory.find_unlist (a c : Nat) (m : Memory) :
    Memory.find (Memory.unlist a m) c = if c = a then none else Memory.find m c := by
  induction m with
  | nil => simp [Memory.unlist, Memory.find]
  | cons cell m ih =>
    obtain ⟨b, w⟩ := cell
    unfold Memory.unlist
    by_cases h : a = b
    · subst h
      by_cases hc : c = a
      · subst hc; simp [ih]
      · simp [Memory.find, hc, ih]
    · by_cases hc : c = b
      · subst hc; simp [Memory.find, h, Ne.symm h]
      · simp [Memory.find, h, hc, ih]

/-- Everything a write does to a read: the written address inside memory holds the value, the rest is as before. -/
theorem Memory.read_write (font : Vector Byte 80) (m : Memory) (a c : Nat) (v : Byte) :
    Memory.read font (Memory.write font m a v) c = if c = a ∧ a < 4096 then v else Memory.read font m c := by
  unfold Memory.write Memory.read
  by_cases ha : a < 4096
  · by_cases hv : v = resetByte font a <;> by_cases hc : c = a <;>
      simp [ha, hv, hc, Memory.find_unlist, Memory.find_put]
  · simp [ha]

@[simp] theorem State.setByte_byte (s : State) (a c : Nat) (v : Byte) :
    (s.setByte a v).byte c = if c = a ∧ a < 4096 then v else s.byte c :=
  Memory.read_write s.cfg.font s.mem a c v

/-- Consecutive bytes written inside memory: each written address holds its byte, the rest is as before. -/
theorem Memory.read_writeBytes (font : Vector Byte 80) (bs : List Byte) (m : Memory) (a c : Nat)
    (h : a + bs.length ≤ 4096) :
    Memory.read font (Memory.writeBytes font m a bs) c =
      if a ≤ c ∧ c < a + bs.length then bs.getD (c - a) 0 else Memory.read font m c := by
  induction bs generalizing m a with
  | nil => simp [Memory.writeBytes]
  | cons b bs ih =>
    simp only [List.length_cons] at h
    rw [Memory.writeBytes, ih _ _ (by omega), Memory.read_write]
    by_cases h1 : c = a
    · subst h1
      have h2 : c < 4096 := by omega
      have h3 : ¬ c + 1 ≤ c := by omega
      simp [h2, h3]
    · by_cases h2 : a + 1 ≤ c
      · have e : c - a = (c - (a + 1)) + 1 := by omega
        have h3 : a ≤ c := by omega
        by_cases h4 : c < a + 1 + bs.length
        · have h5 : c < a + (bs.length + 1) := by omega
          simp [h2, h3, h4, h5, e]
        · have h5 : ¬ c < a + (bs.length + 1) := by omega
          simp [h4, h5, h1]
      · have h3 : ¬ a ≤ c := by omega
        simp [h2, h3, h1]

/-! ## The canonical form -/

theorem Memory.wfFrom_cons (font : Vector Byte 80) (low a : Nat) (b : Byte) (m : Memory) :
    Memory.wfFrom font low ((a, b) :: m) = true ↔
      low ≤ a ∧ a < 4096 ∧ b ≠ resetByte font a ∧ Memory.wfFrom font (a + 1) m = true := by
  simp only [Memory.wfFrom, Bool.and_eq_true, decide_eq_true_eq, and_assoc]

theorem Memory.wfFrom_mono {font : Vector Byte 80} {low low' : Nat} {m : Memory} (hl : low' ≤ low)
    (h : Memory.wfFrom font low m = true) : Memory.wfFrom font low' m = true := by
  cases m with
  | nil => rfl
  | cons cell m =>
    rw [Memory.wfFrom_cons] at h ⊢
    exact ⟨Nat.le_trans hl h.1, h.2⟩

theorem Memory.wfFrom_put {font : Vector Byte 80} {low a : Nat} {v : Byte} {m : Memory} (hl : low ≤ a) (ha : a < 4096)
    (hv : v ≠ resetByte font a) (h : Memory.wfFrom font low m = true) :
    Memory.wfFrom font low (Memory.put a v m) = true := by
  induction m generalizing low with
  | nil => simp [Memory.put, Memory.wfFrom, hl, ha, hv]
  | cons cell m ih =>
    obtain ⟨b, w⟩ := cell
    obtain ⟨h1, h2, h3, h4⟩ := (Memory.wfFrom_cons ..).mp h
    unfold Memory.put
    split
    · next hab => rw [Memory.wfFrom_cons, Memory.wfFrom_cons]; exact ⟨hl, ha, hv, hab, h2, h3, h4⟩
    · split
      · next hab => subst hab; rw [Memory.wfFrom_cons]; exact ⟨hl, ha, hv, h4⟩
      · rw [Memory.wfFrom_cons]; exact ⟨h1, h2, h3, ih (by omega) h4⟩

theorem Memory.wfFrom_unlist {font : Vector Byte 80} {low a : Nat} {m : Memory}
    (h : Memory.wfFrom font low m = true) : Memory.wfFrom font low (Memory.unlist a m) = true := by
  induction m generalizing low with
  | nil => rfl
  | cons cell m ih =>
    obtain ⟨b, w⟩ := cell
    obtain ⟨h1, h2, h3, h4⟩ := (Memory.wfFrom_cons ..).mp h
    unfold Memory.unlist
    split
    · exact Memory.wfFrom_mono (by omega) (ih h4)
    · rw [Memory.wfFrom_cons]; exact ⟨h1, h2, h3, ih h4⟩

/-- A write keeps the canonical form. -/
theorem Memory.wf_write {font : Vector Byte 80} {m : Memory} (a : Nat) (v : Byte) (h : Memory.wf font m = true) :
    Memory.wf font (Memory.write font m a v) = true := by
  unfold Memory.write Memory.wf
  split
  · split
    · exact Memory.wfFrom_unlist h
    · next ha hv => exact Memory.wfFrom_put (Nat.zero_le a) ha hv h
  · exact h

/-- Consecutive writes keep the canonical form. -/
theorem Memory.wf_writeBytes {font : Vector Byte 80} (bs : List Byte) {m : Memory} (a : Nat)
    (h : Memory.wf font m = true) : Memory.wf font (Memory.writeBytes font m a bs) = true := by
  induction bs generalizing m a with
  | nil => exact h
  | cons b bs ih => exact ih (a + 1) (Memory.wf_write a b h)

/-- Reset's memory is in canonical form. -/
theorem resetWith_wf (c : Config) : Memory.wf (State.resetWith c).cfg.font (State.resetWith c).mem = true := rfl

end Sys2Proof.Machine
end

