-- ==== Sys2Proof/Laws/Ops.lean ====
section
/-! SUPPORT. One lemma for each shared operation: everything it can answer. -/

namespace Sys2Proof.Machine

/-! ## Raising a fault -/

/-- A raise answers the state as it was, in `Faulted(e)` (spec R13). -/
theorem raise_next {e : Fault} {s t : State} : raise e s = .next t ↔ t = s.setRun (.faulted e) := by
  simp [raise, eq_comm]

/-! ## The call stack -/

theorem stackFull_iff (s : State) : stackFull s = true ↔ ∃ n, s.cfg.stackDepth = some n ∧ n ≤ s.stack.length := by
  unfold stackFull
  split <;> simp_all

/-- A push either overflows, with nothing done, or goes on with the entry on top (R29). -/
theorem push_cases (v : Word) (s : State) (rest : State → Result) :
    (stackFull s = true ∧ push v s rest = .next (s.setRun (.faulted (.stackOverflow (insnAddr s))))) ∨
    (stackFull s = false ∧ push v s rest = rest (s.setStack (s.stack ++ [v]))) := by
  cases h : stackFull s <;> simp [push, h, raise]

/-- A pop of an empty stack underflows, with nothing done (R30). -/
theorem pop_nil {s : State} (rest : Word → State → Result) (h : s.stack = []) :
    pop s rest = .next (s.setRun (.faulted (.stackUnderflow (insnAddr s)))) := by
  simp [pop, h, raise]

/-- A pop takes the last entry (R30). -/
theorem pop_append {s : State} (rest : Word → State → Result) {l : List Word} {v : Word} (h : s.stack = l ++ [v]) :
    pop s rest = rest v (s.setStack l) := by
  simp [pop, h]

/-- A stack is empty or has a top. -/
theorem stack_cases (s : State) : s.stack = [] ∨ ∃ l v, s.stack = l ++ [v] := by
  rcases List.eq_nil_or_concat s.stack with h | ⟨l, v, h⟩
  · exact .inl h
  · exact .inr ⟨l, v, by simpa using h⟩

/-! ## The bounds check -/

theorem blockFault_none {base count : Nat} (h : count = 0 ∨ base + count ≤ 4096) : blockFault base count = none := by
  simp only [blockFault, memSize_eq]
  exact if_pos h

theorem blockFault_some {base count : Nat} (h : 0 < count ∧ 4096 < base + count) :
    blockFault base count = some (.memOutOfBounds (max base 4096)) := by
  simp only [blockFault, memSize_eq]
  exact if_neg (by omega)

/-- Accesses in bounds: the instruction goes on (R43). -/
theorem withBlock_ok {base count : Nat} {s : State} (rest : State → Result) (h : count = 0 ∨ base + count ≤ 4096) :
    withBlock base count s rest = rest s := by
  simp [withBlock, blockFault_none h]

/-- An access out of bounds: the fault names the lowest offending address and nothing is done (R43). -/
theorem withBlock_fault {base count : Nat} {s : State} (rest : State → Result) (h : 0 < count ∧ 4096 < base + count) :
    withBlock base count s rest = .next (s.setRun (.faulted (.memOutOfBounds (max base 4096)))) := by
  simp [withBlock, blockFault_some h, raise]

/-! ## Skips and flags -/

@[simp] theorem skipIf_true (s : State) : skipIf true s = s.setPc (s.pc + 2) := rfl

@[simp] theorem skipIf_false (s : State) : skipIf false s = s := rfl

/-- A skip changes the pc, by 2, or nothing. -/
theorem skipIf_pc (c : Bool) (s : State) : (skipIf c s).pc = if c then s.pc + 2 else s.pc := by
  cases c <;> simp

/-- Result and flag: VF holds the flag whatever X is, V[X] the result if X is not F (R100). -/
theorem writeWithFlag_reg (x r : Reg) (a f : Byte) (s : State) :
    (writeWithFlag x a f s).reg r = if r = flagReg then f else if r = x then a else s.reg r := by
  simp [writeWithFlag, State.setReg_reg]

/-- Result and flag write no other piece: the state is the old one with two registers set. -/
theorem writeWithFlag_eq (x : Reg) (a f : Byte) (s : State) :
    writeWithFlag x a f s = (s.setReg x a).setReg flagReg f := rfl

theorem flagOf_toNat (c : Bool) : (flagOf c).toNat = if c then 1 else 0 := by
  cases c <;> rfl

/-! ## Fetch -/

theorem fetchable_iff (s : State) : fetchable s = true ↔ s.pc.toNat + 1 < 4096 := by
  simp only [fetchable, decide_eq_true_eq]

@[simp] theorem fetched_pc (s : State) : (fetched s).pc = s.pc + 2 := rfl
@[simp] theorem fetched_trace (s : State) : (fetched s).trace = pushTrace s.trace (fetchWord s) := rfl
@[simp] theorem fetched_cfg (s : State) : (fetched s).cfg = s.cfg := rfl
@[simp] theorem fetched_mem (s : State) : (fetched s).mem = s.mem := rfl
@[simp] theorem fetched_v (s : State) : (fetched s).v = s.v := rfl
@[simp] theorem fetched_i (s : State) : (fetched s).i = s.i := rfl
@[simp] theorem fetched_stack (s : State) : (fetched s).stack = s.stack := rfl
@[simp] theorem fetched_dt (s : State) : (fetched s).dt = s.dt := rfl
@[simp] theorem fetched_st (s : State) : (fetched s).st = s.st := rfl
@[simp] theorem fetched_fb (s : State) : (fetched s).fb = s.fb := rfl
@[simp] theorem fetched_run (s : State) : (fetched s).run = s.run := rfl
@[simp] theorem fetched_key (s : State) : (fetched s).key = s.key := rfl
@[simp] theorem fetched_draws (s : State) : (fetched s).draws = s.draws := rfl
@[simp] theorem fetched_reg (s : State) (r : Reg) : (fetched s).reg r = s.reg r := rfl
@[simp] theorem fetched_byte (s : State) (a : Nat) : (fetched s).byte a = s.byte a := rfl
@[simp] theorem fetched_pixel (s : State) (x : Fin 64) (y : Fin 32) : (fetched s).pixel x y = s.pixel x y := rfl
@[simp] theorem fetched_keyDown (s : State) (k : BitVec 4) : (fetched s).keyDown k = s.keyDown k := rfl

/-- The pc during execute is two past the instruction, so `insnAddr` is its address (R63). -/
@[simp] theorem insnAddr_fetched (s : State) : insnAddr (fetched s) = s.pc := by
  exact BitVec.add_sub_cancel s.pc 2

/-- The trace never passes its bound (R35). -/
theorem pushTrace_length (l : List Word) (w : Word) (h : l.length ≤ 14) : (pushTrace l w).length ≤ 14 := by
  have e : pushTrace l w = if 14 < l.length + 1 then (l ++ [w]).tail else l ++ [w] := by
    rw [← List.length_singleton (a := w), ← List.length_append]; rfl
  rw [e]
  split <;> simp <;> omega

end Sys2Proof.Machine
end

