-- ==== Sys2Proof/Laws/Blocks.lean ====
section
/-! SUPPORT. The two ways each instruction that accesses a block of memory can go (spec R43): every access in bounds, or
the fault for the lowest offending address with nothing else done. -/

namespace Sys2Proof.Machine

variable (x y : Reg) (n : Nibble) (s : State)

theorem exec_ldB_ok (h : effAddr s 2 < 4096) :
    exec (.ldB x) s =
      .next (s.setMem (Memory.writeBytes s.cfg.font s.mem (effAddr s 0) (decimalDigits (s.reg x)))) :=
  withBlock_ok (base := effAddr s 0) (count := 3)
    (fun t => .next (t.setMem (Memory.writeBytes t.cfg.font t.mem (effAddr t 0) (decimalDigits (t.reg x)))))
    (by simp only [effAddr] at *; omega)

theorem exec_ldB_fault (h : 4096 ≤ effAddr s 2) :
    exec (.ldB x) s = .next (s.setRun (.faulted (.memOutOfBounds (max (effAddr s 0) 4096)))) :=
  withBlock_fault (base := effAddr s 0) (count := 3)
    (fun t => .next (t.setMem (Memory.writeBytes t.cfg.font t.mem (effAddr t 0) (decimalDigits (t.reg x)))))
    (by simp only [effAddr] at *; omega)

theorem exec_ldMemStore_ok (h : effAddr s x.toNat < 4096) :
    exec (.ldMemStore x) s = .next ((storeRegs (x.toNat + 1) s).setI (advancedI s x)) :=
  withBlock_ok (base := effAddr s 0) (count := x.toNat + 1)
    (fun t => .next ((storeRegs (x.toNat + 1) t).setI (advancedI t x))) (by simp only [effAddr] at *; omega)

theorem exec_ldMemStore_fault (h : 4096 ≤ effAddr s x.toNat) :
    exec (.ldMemStore x) s = .next (s.setRun (.faulted (.memOutOfBounds (max (effAddr s 0) 4096)))) :=
  withBlock_fault (base := effAddr s 0) (count := x.toNat + 1)
    (fun t => .next ((storeRegs (x.toNat + 1) t).setI (advancedI t x))) (by simp only [effAddr] at *; omega)

theorem exec_ldMemLoad_ok (h : effAddr s x.toNat < 4096) :
    exec (.ldMemLoad x) s = .next ((loadRegs (x.toNat + 1) s).setI (advancedI s x)) :=
  withBlock_ok (base := effAddr s 0) (count := x.toNat + 1)
    (fun t => .next ((loadRegs (x.toNat + 1) t).setI (advancedI t x))) (by simp only [effAddr] at *; omega)

theorem exec_ldMemLoad_fault (h : 4096 ≤ effAddr s x.toNat) :
    exec (.ldMemLoad x) s = .next (s.setRun (.faulted (.memOutOfBounds (max (effAddr s 0) 4096)))) :=
  withBlock_fault (base := effAddr s 0) (count := x.toNat + 1)
    (fun t => .next ((loadRegs (x.toNat + 1) t).setI (advancedI t x))) (by simp only [effAddr] at *; omega)

/-- DRW in bounds: the framebuffer and VF are those of the drawn sprite, everything else is as before. -/
theorem exec_drw_ok (h : n.toNat = 0 ∨ effAddr s n.toNat ≤ 4096) :
    ∃ d, d = drawSprite (s.reg x).toNat (s.reg y).toNat n.toNat (fun row => s.byte (effAddr s row)) s.fb ∧
      exec (.drw x y n) s = .next (((s.setReg flagReg 0).setFb d.1).setReg flagReg (flagOf d.2)) := by
  refine ⟨_, rfl, ?_⟩
  show execDrw x y n s = _
  rw [execDrw, withBlock_ok _ (by simp only [effAddr] at *; omega)]
  rfl

theorem exec_drw_fault (h : 0 < n.toNat) (h' : 4096 < effAddr s n.toNat) :
    exec (.drw x y n) s = .next (s.setRun (.faulted (.memOutOfBounds (max (effAddr s 0) 4096)))) := by
  show execDrw x y n s = _
  rw [execDrw, withBlock_fault _ (by simp only [effAddr] at *; omega)]

end Sys2Proof.Machine
end

