-- ==== Sys2Proof/Laws/Decode.lean ====
section
/-! SUPPORT. The fields of the words the encoder builds, and a word from its fields (spec R57). -/

namespace Sys2Proof

/-! ## Fields of a concatenation, at any widths -/

theorem extract_above {a b : Nat} (u : BitVec a) (v : BitVec b) (k n : Nat) :
    (u ++ v).extractLsb' (b + k) n = u.extractLsb' k n := by
  apply BitVec.eq_of_getLsbD_eq
  intro j hj
  simp only [BitVec.getLsbD_extractLsb', BitVec.getLsbD_append, hj, decide_true, Bool.true_and]
  rw [if_neg (by omega)]
  congr 1; omega

theorem extract_below {a b : Nat} (u : BitVec a) (v : BitVec b) (k n : Nat) (h : k + n ≤ b) :
    (u ++ v).extractLsb' k n = v.extractLsb' k n := by
  apply BitVec.eq_of_getLsbD_eq
  intro j hj
  simp only [BitVec.getLsbD_extractLsb', BitVec.getLsbD_append, hj, decide_true, Bool.true_and]
  rw [if_pos (by omega)]

theorem extract_all {a : Nat} (u : BitVec a) : u.extractLsb' 0 a = u := by
  apply BitVec.eq_of_getLsbD_eq
  intro j hj
  simp [hj]

theorem append_extract {a b m : Nat} (w : BitVec m) (k : Nat) :
    w.extractLsb' (k + b) a ++ w.extractLsb' k b = w.extractLsb' k (a + b) := by
  apply BitVec.eq_of_getLsbD_eq
  intro j hj
  simp only [BitVec.getLsbD_extractLsb', BitVec.getLsbD_append, hj, decide_true, Bool.true_and]
  split
  · simp [*]
  · rw [decide_eq_true (by omega : j - b < a), Bool.true_and]; congr 1; omega

/-! ## The fields of an encoded word -/

variable (op : BitVec 4) (x y : Reg) (n : Nibble) (nn : Byte) (nnn : Addr)

@[simp] theorem fieldOp_formatNNN : fieldOp (formatNNN op nnn) = op :=
  (extract_above op nnn 0 4).trans (extract_all op)

@[simp] theorem fieldNNN_formatNNN : fieldNNN (formatNNN op nnn) = nnn :=
  (extract_below op nnn 0 12 (by omega)).trans (extract_all nnn)

@[simp] theorem fieldOp_formatXNN : fieldOp (formatXNN op x nn) = op :=
  (extract_above (op ++ x) nn 4 4).trans ((extract_above op x 0 4).trans (extract_all op))

@[simp] theorem fieldX_formatXNN : fieldX (formatXNN op x nn) = x :=
  (extract_above (op ++ x) nn 0 4).trans ((extract_below op x 0 4 (by omega)).trans (extract_all x))

@[simp] theorem fieldNN_formatXNN : fieldNN (formatXNN op x nn) = nn :=
  (extract_below (op ++ x) nn 0 8 (by omega)).trans (extract_all nn)

@[simp] theorem fieldOp_formatXYN : fieldOp (formatXYN op x y n) = op :=
  (extract_above (op ++ x ++ y) n 8 4).trans
    ((extract_above (op ++ x) y 4 4).trans ((extract_above op x 0 4).trans (extract_all op)))

@[simp] theorem fieldX_formatXYN : fieldX (formatXYN op x y n) = x :=
  (extract_above (op ++ x ++ y) n 4 4).trans
    ((extract_above (op ++ x) y 0 4).trans ((extract_below op x 0 4 (by omega)).trans (extract_all x)))

@[simp] theorem fieldY_formatXYN : fieldY (formatXYN op x y n) = y :=
  (extract_above (op ++ x ++ y) n 0 4).trans ((extract_below (op ++ x) y 0 4 (by omega)).trans (extract_all y))

@[simp] theorem fieldN_formatXYN : fieldN (formatXYN op x y n) = n :=
  (extract_below (op ++ x ++ y) n 0 4 (by omega)).trans (extract_all n)

/-! ## A word is the concatenation of its fields -/

theorem formatNNN_fields (w : Word) : formatNNN (fieldOp w) (fieldNNN w) = w :=
  (append_extract (a := 4) (b := 12) w 0).trans (extract_all w)

theorem formatXNN_fields (w : Word) : formatXNN (fieldOp w) (fieldX w) (fieldNN w) = w := by
  have h : fieldOp w ++ fieldX w = w.extractLsb' 8 8 := append_extract (a := 4) (b := 4) w 8
  have e : formatXNN (fieldOp w) (fieldX w) (fieldNN w) = (fieldOp w ++ fieldX w) ++ fieldNN w := rfl
  rw [e, h]
  exact (append_extract (a := 8) (b := 8) w 0).trans (extract_all w)

theorem formatXYN_fields (w : Word) : formatXYN (fieldOp w) (fieldX w) (fieldY w) (fieldN w) = w := by
  have h : fieldOp w ++ fieldX w = w.extractLsb' 8 8 := append_extract (a := 4) (b := 4) w 8
  have h' : w.extractLsb' 8 8 ++ fieldY w = w.extractLsb' 4 12 := append_extract (a := 8) (b := 4) w 4
  have e : formatXYN (fieldOp w) (fieldX w) (fieldY w) (fieldN w) =
      ((fieldOp w ++ fieldX w) ++ fieldY w) ++ fieldN w := rfl
  rw [e, h, h']
  exact (append_extract (a := 12) (b := 4) w 0).trans (extract_all w)

end Sys2Proof
end

