-- ==== Sys2Proof/Laws/Display.lean ====
section
/-! SUPPORT. Pixels, and what drawing a sprite does to all of them (spec R109, R110). -/

namespace Sys2Proof.Machine

/-! ## One pixel -/

/-- A pixel after a pixel is replaced. -/
theorem pixel_setPixel (f : Framebuffer) (x x' : Fin 64) (y y' : Fin 32) (b : Bool) :
    Framebuffer.pixel (Framebuffer.setPixel f x y b) x' y' =
      if x' = x ∧ y' = y then b else Framebuffer.pixel f x' y' := by
  unfold Framebuffer.pixel Framebuffer.setPixel
  rw [Vector.getElem_set]
  have h : (y.val * 64 + x.val = y'.val * 64 + x'.val) ↔ (x' = x ∧ y' = y) := by
    constructor
    · intro e; constructor <;> apply Fin.ext <;> omega
    · rintro ⟨rfl, rfl⟩; rfl
  simp [h]

/-- A toggle changes one pixel and records whether it was set (R109). -/
theorem togglePixel_pixel (x x' : Fin 64) (y y' : Fin 32) (p : Framebuffer × Bool) :
    Framebuffer.pixel (togglePixel x y p).1 x' y' =
      if x' = x ∧ y' = y then !Framebuffer.pixel p.1 x' y' else Framebuffer.pixel p.1 x' y' := by
  simp only [togglePixel, pixel_setPixel]
  by_cases h : x' = x ∧ y' = y
  · obtain ⟨rfl, rfl⟩ := h; simp
  · simp [h]

theorem togglePixel_collision (x : Fin 64) (y : Fin 32) (p : Framebuffer × Bool) :
    (togglePixel x y p).2 = (p.2 || Framebuffer.pixel p.1 x y) := rfl

/-- A cleared framebuffer has no pixel set (R108). -/
theorem pixel_clear (x : Fin 64) (y : Fin 32) : Framebuffer.pixel (Vector.replicate 2048 false) x y = false := by
  simp [Framebuffer.pixel]

/-! ## A sprite -/

/-- The pixels that the first `cols` columns of a sprite row light (R109, R110). -/
def RowLights (x0 y0 row : Nat) (bits : Byte) (cols : Nat) (px : Fin 64) (py : Fin 32) : Prop :=
  ∃ col, col < cols ∧ bits.getLsbD (7 - col) = true ∧ px = Fin.ofNat 64 (x0 + col) ∧ py = Fin.ofNat 32 (y0 + row)

/-- What a round of drawing does, said of a set of lit pixels: it toggles them, leaves the others, and records whether
one of them was set. -/
structure Draws (lit : Fin 64 → Fin 32 → Prop) (p q : Framebuffer × Bool) : Prop where
  toggled : ∀ px py, lit px py → Framebuffer.pixel q.1 px py = !Framebuffer.pixel p.1 px py
  kept : ∀ px py, ¬ lit px py → Framebuffer.pixel q.1 px py = Framebuffer.pixel p.1 px py
  collision : q.2 = true ↔ p.2 = true ∨ ∃ px py, lit px py ∧ Framebuffer.pixel p.1 px py = true

theorem Draws.nothing {lit : Fin 64 → Fin 32 → Prop} (h : ∀ px py, ¬ lit px py) (p : Framebuffer × Bool) :
    Draws lit p p :=
  ⟨fun px py hl => absurd hl (h px py), fun _ _ _ => rfl,
    ⟨.inl, fun hc => hc.elim id fun ⟨px, py, hl, _⟩ => absurd hl (h px py)⟩⟩

/-- Two rounds on disjoint pixels are one round on all of them. -/
theorem Draws.append {lit lit' both : Fin 64 → Fin 32 → Prop} {p q r : Framebuffer × Bool} (h : Draws lit p q)
    (h' : Draws lit' q r) (hd : ∀ px py, lit px py → ¬ lit' px py)
    (hb : ∀ px py, both px py ↔ lit px py ∨ lit' px py) : Draws both p r := by
  refine ⟨fun px py hl => ?_, fun px py hl => ?_, ?_⟩
  · rcases (hb px py).mp hl with h1 | h1
    · rw [h'.kept px py (hd px py h1), h.toggled px py h1]
    · rw [h'.toggled px py h1, h.kept px py fun h2 => hd px py h2 h1]
  · rw [hb, not_or] at hl
    rw [h'.kept px py hl.2, h.kept px py hl.1]
  · rw [h'.collision, h.collision, or_assoc]
    refine or_congr_right ?_
    constructor
    · rintro (⟨px, py, h1, h2⟩ | ⟨px, py, h1, h2⟩)
      · exact ⟨px, py, (hb px py).mpr (.inl h1), h2⟩
      · exact ⟨px, py, (hb px py).mpr (.inr h1), by rwa [h.kept px py fun h3 => hd px py h3 h1] at h2⟩
    · rintro ⟨px, py, h1, h2⟩
      rcases (hb px py).mp h1 with h3 | h3
      · exact .inl ⟨px, py, h3, h2⟩
      · exact .inr ⟨px, py, h3, by rwa [h.kept px py fun h4 => hd px py h4 h3]⟩

theorem Draws.toggle (x : Fin 64) (y : Fin 32) (p : Framebuffer × Bool) :
    Draws (fun px py => px = x ∧ py = y) p (togglePixel x y p) := by
  refine ⟨fun px py hl => ?_, fun px py hl => ?_, ?_⟩
  · rw [togglePixel_pixel, if_pos hl]
  · rw [togglePixel_pixel, if_neg hl]
  · rw [togglePixel_collision, Bool.or_eq_true]
    refine or_congr_right ⟨fun h => ⟨x, y, ⟨rfl, rfl⟩, h⟩, ?_⟩
    rintro ⟨px, py, ⟨rfl, rfl⟩, h⟩; exact h

/-- A sprite row toggles the pixels it lights: its 8 columns are fewer than 64, so none is toggled twice (R109). -/
theorem drawRow_draws (x0 y0 row : Nat) (bits : Byte) (p : Framebuffer × Bool) :
    Draws (RowLights x0 y0 row bits 8) p (drawRow x0 y0 row bits p) := by
  suffices h : ∀ n, n ≤ 8 → Draws (RowLights x0 y0 row bits n) p ((List.range n).foldl
      (fun q col => if bits.getLsbD (7 - col) then togglePixel (Fin.ofNat 64 (x0 + col)) (Fin.ofNat 32 (y0 + row)) q
        else q) p) from h 8 (Nat.le_refl 8)
  intro n hn
  induction n with
  | zero => exact Draws.nothing (fun px py ⟨col, h, _⟩ => absurd h (Nat.not_lt_zero col)) p
  | succ n ih =>
    rw [List.range_succ, List.foldl_append]
    simp only [List.foldl_cons, List.foldl_nil]
    have hsplit : ∀ px py, RowLights x0 y0 row bits (n + 1) px py ↔ RowLights x0 y0 row bits n px py ∨
        (bits.getLsbD (7 - n) = true ∧ px = Fin.ofNat 64 (x0 + n) ∧ py = Fin.ofNat 32 (y0 + row)) := by
      intro px py
      constructor
      · rintro ⟨col, h1, h2⟩
        by_cases hc : col = n
        · subst hc; exact .inr h2
        · exact .inl ⟨col, by omega, h2⟩
      · rintro (⟨col, h1, h2⟩ | h2)
        · exact ⟨col, by omega, h2⟩
        · exact ⟨n, by omega, h2⟩
    split
    · next hbit =>
      refine (ih (by omega)).append (Draws.toggle _ _ _) ?_ fun px py => by rw [hsplit]; simp [hbit]
      rintro px py ⟨col, h1, _, h2, _⟩ ⟨h3, _⟩
      have := congrArg Fin.val (h2.symm.trans h3)
      simp only [Fin.val_ofNat] at this
      omega
    · next hbit =>
      have := ih (by omega)
      have he : RowLights x0 y0 row bits (n + 1) = RowLights x0 y0 row bits n := by
        funext px py; rw [hsplit]; simp [hbit]
      rwa [he]

/-- The pixels a sprite of `rows` rows lights (R109, R110). -/
def SpriteLights (x0 y0 rows : Nat) (spriteByte : Nat → Byte) (px : Fin 64) (py : Fin 32) : Prop :=
  ∃ row, row < rows ∧ RowLights x0 y0 row (spriteByte row) 8 px py

/-- A sprite toggles the pixels it lights: it has fewer rows than the screen, so none is toggled twice (R109). -/
theorem drawSprite_draws (x0 y0 rows : Nat) (hr : rows ≤ 32) (spriteByte : Nat → Byte) (f : Framebuffer) :
    Draws (SpriteLights x0 y0 rows spriteByte) (f, false) (drawSprite x0 y0 rows spriteByte f) := by
  unfold drawSprite
  induction rows with
  | zero => exact Draws.nothing (fun px py ⟨row, h, _⟩ => absurd h (Nat.not_lt_zero row)) _
  | succ n ih =>
    rw [List.range_succ, List.foldl_append]
    simp only [List.foldl_cons, List.foldl_nil]
    refine (ih (by omega)).append (drawRow_draws ..) ?_ ?_
    · rintro px py ⟨row, h1, _, _, _, _, h2⟩ ⟨_, _, _, _, h3⟩
      have := congrArg Fin.val (h2.symm.trans h3)
      simp only [Fin.val_ofNat] at this
      omega
    · intro px py
      constructor
      · rintro ⟨row, h1, h2⟩
        by_cases hc : row = n
        · subst hc; exact .inr h2
        · exact .inl ⟨row, by omega, h2⟩
      · rintro (⟨row, h1, h2⟩ | h2)
        · exact ⟨row, by omega, h2⟩
        · exact ⟨n, by omega, h2⟩

end Sys2Proof.Machine
end

