-- ==== Sys2Proof/Laws/HostMoves.lean ====
section
/-! SUPPORT. What each of the host's moves answers, said once (spec R137). -/

namespace Sys2Proof.Machine

/-- A load that fits (R144). -/
theorem load_ok {bytes : List Byte} (s : State) (h : bytes.length ≤ 3584) :
    load bytes s = .ok ((s.setMem (Memory.writeBytes s.cfg.font s.mem 0x200 bytes)).setPc 0x200) :=
  if_pos h

/-- A load that answers a state fitted, and this is its state (R144, R145). -/
theorem load_eq_ok {bytes : List Byte} {s t : State} (h : load bytes s = .ok t) :
    bytes.length ≤ 3584 ∧ t = (s.setMem (Memory.writeBytes s.cfg.font s.mem 0x200 bytes)).setPc 0x200 := by
  unfold load at h
  split at h
  · next hl => exact ⟨hl, (Except.ok.inj h).symm⟩
  · cases h

/-- A reset is construction with the machine's parameters, but for the numbering of draws (R143). -/
theorem hostReset_eq (s : State) : hostReset s = (State.resetWith s.cfg).setDraws s.draws := rfl

/-- A tick writes the two timers (R135). -/
theorem tick_eq (s : State) : tick s = (s.setDt (tickTimer s.dt)).setSt (tickTimer s.st) := rfl

/-- One timer in a tick: one less, and 0 stays 0 (R135). -/
theorem tickTimer_toNat (b : Byte) : (tickTimer b).toNat = b.toNat - 1 := by
  unfold tickTimer
  split
  · bv_omega
  · omega

/-- A keypad write writes the keypad (R34). -/
theorem writeKeys_eq (keys : Vector Bool 16) (s : State) : writeKeys keys s = s.setKeys keys := rfl

end Sys2Proof.Machine
end

