-- ==== Sys2Proof/Laws/Loops.lean ====
section
/-! SUPPORT. The loops of FX55 and FX65: what each has done after its first rounds (spec R105, R106). -/

namespace Sys2Proof.Machine

theorem storeRegs_succ (n : Nat) (s : State) :
    storeRegs (n + 1) s = (storeRegs n s).setByte (effAddr (storeRegs n s) n) ((storeRegs n s).reg (regNumber n)) := by
  simp [storeRegs, List.range_succ]

theorem loadRegs_succ (n : Nat) (s : State) :
    loadRegs (n + 1) s = (loadRegs n s).setReg (regNumber n) ((loadRegs n s).byte (effAddr (loadRegs n s) n)) := by
  simp [loadRegs, List.range_succ]

/-- The store loop writes memory only. -/
theorem storeRegs_eq_setMem (n : Nat) (s : State) : ∃ m, storeRegs n s = s.setMem m := by
  induction n with
  | zero => exact ⟨s.mem, rfl⟩
  | succ n ih =>
    obtain ⟨m, hm⟩ := ih
    exact ⟨Memory.write s.cfg.font m (effAddr s n) (s.reg (regNumber n)), by rw [storeRegs_succ, hm]; rfl⟩

/-- The load loop writes V0..VF only. -/
theorem loadRegs_eq_v (n : Nat) (s : State) : ∃ w, loadRegs n s = { s with v := w } := by
  induction n with
  | zero => exact ⟨s.v, rfl⟩
  | succ n ih =>
    obtain ⟨w, hw⟩ := ih
    refine ⟨w.set (regNumber n).toNat (s.byte (effAddr s n)) (regNumber n).isLt, ?_⟩
    rw [loadRegs_succ, hw]; rfl

/-- Memory after n rounds of the store loop: byte I + k holds V[k] for k < n, the rest is as before. -/
theorem storeRegs_byte (n : Nat) (s : State) (a : Nat) (h : s.i.toNat + n ≤ 4096) :
    (storeRegs n s).byte a =
      if s.i.toNat ≤ a ∧ a < s.i.toNat + n then s.reg (regNumber (a - s.i.toNat)) else s.byte a := by
  induction n with
  | zero => simp [storeRegs]
  | succ n ih =>
    obtain ⟨m, hm⟩ := storeRegs_eq_setMem n s
    have hi : (storeRegs n s).i = s.i := by rw [hm]; rfl
    have hr : ∀ r, (storeRegs n s).reg r = s.reg r := fun r => by rw [hm]; rfl
    rw [storeRegs_succ, State.setByte_byte, ih (by omega), hr]
    simp only [effAddr, hi]
    by_cases h1 : a = s.i.toNat + n
    · subst h1
      have h2 : s.i.toNat + n < 4096 := by omega
      simp [h2]
    · by_cases h2 : s.i.toNat ≤ a
      · have h3 : (a < s.i.toNat + n) ↔ (a < s.i.toNat + (n + 1)) := by omega
        simp [h1, h2, h3]
      · simp [h1, h2]

/-- V0..VF after n rounds of the load loop: V[k] holds byte I + k for k < n, the rest is as before. -/
theorem loadRegs_reg (n : Nat) (hn : n ≤ 16) (s : State) (r : Reg) :
    (loadRegs n s).reg r = if r.toNat < n then s.byte (s.i.toNat + r.toNat) else s.reg r := by
  induction n with
  | zero => simp [loadRegs]
  | succ n ih =>
    obtain ⟨w, hw⟩ := loadRegs_eq_v n s
    have hi : (loadRegs n s).i = s.i := by rw [hw]
    have hb : ∀ a, (loadRegs n s).byte a = s.byte a := fun a => by rw [hw]; rfl
    have hk : (regNumber n).toNat = n := by simp [regNumber]; omega
    rw [loadRegs_succ, State.setReg_reg, ih (by omega), hb]
    simp only [effAddr, hi]
    by_cases h1 : r = regNumber n
    · subst h1; simp [hk]
    · have h2 : r.toNat ≠ n := fun e => h1 (BitVec.eq_of_toNat_eq (by omega))
      have h3 : (r.toNat < n) ↔ (r.toNat < n + 1) := by omega
      simp [h1, h3]

end Sys2Proof.Machine
end

