-- ==== Sys2Proof/Laws/PerInstr.lean ====
section
/-! SUPPORT. What is said of every instruction as syntax, one lemma for each constructor: its operands are in range
(spec R58), and its word lies in its own row of the opcode table (R57, R65). -/

namespace Sys2Proof.Laws.Encoding

/-- The instruction is well formed, and its word is one that its row of spec/opcode_table.json selects. -/
def Statement (i : Instr) : Prop := i.wellFormed = true ∧ i.row.selects (encode i) = true

theorem reg_inRange (x : Reg) : Operand.inRange (.reg x.toNat) = true := decide_eq_true x.isLt
theorem n_inRange (v : Nibble) : Operand.inRange (.n v.toNat) = true := decide_eq_true v.isLt
theorem nn_inRange (v : Byte) : Operand.inRange (.nn v.toNat) = true := decide_eq_true v.isLt
theorem nnn_inRange (v : Addr) : Operand.inRange (.nnn v.toNat) = true := decide_eq_true v.isLt

theorem and_F (v : BitVec 4) : v &&& 0xF#4 = v := BitVec.and_allOnes

theorem and_FF (v : BitVec 8) : v &&& 0xFF#8 = v := BitVec.and_allOnes

/-- The rows with mask F000 fix the op nibble alone. -/
theorem selects_NNN (op : BitVec 4) (a : Addr) :
    (OpcodeRow.mk 0xF000 (op ++ 0x000#12)).selects (formatNNN op a) = true := by
  have h : (op ++ a) &&& (0xF#4 ++ 0x000#12) = op ++ 0x000#12 := by
    rw [BitVec.and_append, and_F, BitVec.and_zero]
  exact beq_iff_eq.mpr h

theorem selects_XNN (op : BitVec 4) (x : Reg) (nn : Byte) :
    (OpcodeRow.mk 0xF000 (op ++ 0x0#4 ++ 0x00#8)).selects (formatXNN op x nn) = true := by
  have h : (op ++ x ++ nn) &&& (0xF#4 ++ 0x0#4 ++ 0x00#8) = op ++ 0x0#4 ++ 0x00#8 := by
    rw [BitVec.and_append, BitVec.and_append, and_F, BitVec.and_zero, BitVec.and_zero]
  exact beq_iff_eq.mpr h

/-- The rows with mask F00F fix the op nibble and N. -/
theorem selects_XY (op : BitVec 4) (x y : Reg) (n : Nibble) :
    (OpcodeRow.mk 0xF00F (op ++ 0x0#4 ++ 0x0#4 ++ n)).selects (formatXYN op x y n) = true := by
  have h : (op ++ x ++ y ++ n) &&& (0xF#4 ++ 0x0#4 ++ 0x0#4 ++ 0xF#4) = op ++ 0x0#4 ++ 0x0#4 ++ n := by
    rw [BitVec.and_append, BitVec.and_append, BitVec.and_append, and_F, and_F, BitVec.and_zero, BitVec.and_zero]
  exact beq_iff_eq.mpr h

/-- DXYN fixes the op nibble alone. -/
theorem selects_XYN (op : BitVec 4) (x y : Reg) (n : Nibble) :
    (OpcodeRow.mk 0xF000 (op ++ 0x0#4 ++ 0x0#4 ++ 0x0#4)).selects (formatXYN op x y n) = true := by
  have h : (op ++ x ++ y ++ n) &&& (0xF#4 ++ 0x0#4 ++ 0x0#4 ++ 0x0#4) = op ++ 0x0#4 ++ 0x0#4 ++ 0x0#4 := by
    rw [BitVec.and_append, BitVec.and_append, BitVec.and_append, and_F, BitVec.and_zero, BitVec.and_zero,
      BitVec.and_zero]
  exact beq_iff_eq.mpr h

/-- The rows with mask F0FF fix the op nibble and NN. -/
theorem selects_X (op : BitVec 4) (x : Reg) (nn : Byte) :
    (OpcodeRow.mk 0xF0FF (op ++ 0x0#4 ++ nn)).selects (formatXNN op x nn) = true := by
  have h : (op ++ x ++ nn) &&& (0xF#4 ++ 0x0#4 ++ 0xFF#8) = op ++ 0x0#4 ++ nn := by
    rw [BitVec.and_append, BitVec.and_append, and_F, and_FF, BitVec.and_zero]
  exact beq_iff_eq.mpr h

theorem halt : Statement .halt := ⟨rfl, rfl⟩

theorem cls : Statement .cls := ⟨rfl, rfl⟩

theorem ret : Statement .ret := ⟨rfl, rfl⟩

theorem jp (nnn : Addr) : Statement (.jp nnn) :=
  ⟨by simp [Instr.wellFormed, Instr.operands, nnn_inRange nnn], selects_NNN 0x1#4 nnn⟩

theorem call (nnn : Addr) : Statement (.call nnn) :=
  ⟨by simp [Instr.wellFormed, Instr.operands, nnn_inRange nnn], selects_NNN 0x2#4 nnn⟩

theorem seImm (x : Reg) (nn : Byte) : Statement (.seImm x nn) :=
  ⟨by simp [Instr.wellFormed, Instr.operands, reg_inRange x, nn_inRange nn], selects_XNN 0x3#4 x nn⟩

theorem sneImm (x : Reg) (nn : Byte) : Statement (.sneImm x nn) :=
  ⟨by simp [Instr.wellFormed, Instr.operands, reg_inRange x, nn_inRange nn], selects_XNN 0x4#4 x nn⟩

theorem seReg (x y : Reg) : Statement (.seReg x y) :=
  ⟨by simp [Instr.wellFormed, Instr.operands, reg_inRange x, reg_inRange y], selects_XY 0x5#4 x y 0x0#4⟩

theorem ldImm (x : Reg) (nn : Byte) : Statement (.ldImm x nn) :=
  ⟨by simp [Instr.wellFormed, Instr.operands, reg_inRange x, nn_inRange nn], selects_XNN 0x6#4 x nn⟩

theorem addImm (x : Reg) (nn : Byte) : Statement (.addImm x nn) :=
  ⟨by simp [Instr.wellFormed, Instr.operands, reg_inRange x, nn_inRange nn], selects_XNN 0x7#4 x nn⟩

theorem ldReg (x y : Reg) : Statement (.ldReg x y) :=
  ⟨by simp [Instr.wellFormed, Instr.operands, reg_inRange x, reg_inRange y], selects_XY 0x8#4 x y 0x0#4⟩

theorem or (x y : Reg) : Statement (.or x y) :=
  ⟨by simp [Instr.wellFormed, Instr.operands, reg_inRange x, reg_inRange y], selects_XY 0x8#4 x y 0x1#4⟩

theorem and (x y : Reg) : Statement (.and x y) :=
  ⟨by simp [Instr.wellFormed, Instr.operands, reg_inRange x, reg_inRange y], selects_XY 0x8#4 x y 0x2#4⟩

theorem xor (x y : Reg) : Statement (.xor x y) :=
  ⟨by simp [Instr.wellFormed, Instr.operands, reg_inRange x, reg_inRange y], selects_XY 0x8#4 x y 0x3#4⟩

theorem addReg (x y : Reg) : Statement (.addReg x y) :=
  ⟨by simp [Instr.wellFormed, Instr.operands, reg_inRange x, reg_inRange y], selects_XY 0x8#4 x y 0x4#4⟩

theorem sub (x y : Reg) : Statement (.sub x y) :=
  ⟨by simp [Instr.wellFormed, Instr.operands, reg_inRange x, reg_inRange y], selects_XY 0x8#4 x y 0x5#4⟩

theorem shr (x y : Reg) : Statement (.shr x y) :=
  ⟨by simp [Instr.wellFormed, Instr.operands, reg_inRange x, reg_inRange y], selects_XY 0x8#4 x y 0x6#4⟩

theorem subn (x y : Reg) : Statement (.subn x y) :=
  ⟨by simp [Instr.wellFormed, Instr.operands, reg_inRange x, reg_inRange y], selects_XY 0x8#4 x y 0x7#4⟩

theorem shl (x y : Reg) : Statement (.shl x y) :=
  ⟨by simp [Instr.wellFormed, Instr.operands, reg_inRange x, reg_inRange y], selects_XY 0x8#4 x y 0xE#4⟩

theorem sneReg (x y : Reg) : Statement (.sneReg x y) :=
  ⟨by simp [Instr.wellFormed, Instr.operands, reg_inRange x, reg_inRange y], selects_XY 0x9#4 x y 0x0#4⟩

theorem ldI (nnn : Addr) : Statement (.ldI nnn) :=
  ⟨by simp [Instr.wellFormed, Instr.operands, nnn_inRange nnn], selects_NNN 0xA#4 nnn⟩

theorem jpV0 (nnn : Addr) : Statement (.jpV0 nnn) :=
  ⟨by simp [Instr.wellFormed, Instr.operands, nnn_inRange nnn], selects_NNN 0xB#4 nnn⟩

theorem rnd (x : Reg) (nn : Byte) : Statement (.rnd x nn) :=
  ⟨by simp [Instr.wellFormed, Instr.operands, reg_inRange x, nn_inRange nn], selects_XNN 0xC#4 x nn⟩

theorem drw (x y : Reg) (n : Nibble) : Statement (.drw x y n) :=
  ⟨by simp [Instr.wellFormed, Instr.operands, reg_inRange x, reg_inRange y, n_inRange n], selects_XYN 0xD#4 x y n⟩

theorem skp (x : Reg) : Statement (.skp x) :=
  ⟨by simp [Instr.wellFormed, Instr.operands, reg_inRange x], selects_X 0xE#4 x 0x9E#8⟩

theorem sknp (x : Reg) : Statement (.sknp x) :=
  ⟨by simp [Instr.wellFormed, Instr.operands, reg_inRange x], selects_X 0xE#4 x 0xA1#8⟩

theorem ldVxDT (x : Reg) : Statement (.ldVxDT x) :=
  ⟨by simp [Instr.wellFormed, Instr.operands, reg_inRange x], selects_X 0xF#4 x 0x07#8⟩

theorem ldVxK (x : Reg) : Statement (.ldVxK x) :=
  ⟨by simp [Instr.wellFormed, Instr.operands, reg_inRange x], selects_X 0xF#4 x 0x0A#8⟩

theorem ldDTVx (x : Reg) : Statement (.ldDTVx x) :=
  ⟨by simp [Instr.wellFormed, Instr.operands, reg_inRange x], selects_X 0xF#4 x 0x15#8⟩

theorem ldSTVx (x : Reg) : Statement (.ldSTVx x) :=
  ⟨by simp [Instr.wellFormed, Instr.operands, reg_inRange x], selects_X 0xF#4 x 0x18#8⟩

theorem addI (x : Reg) : Statement (.addI x) :=
  ⟨by simp [Instr.wellFormed, Instr.operands, reg_inRange x], selects_X 0xF#4 x 0x1E#8⟩

theorem ldF (x : Reg) : Statement (.ldF x) :=
  ⟨by simp [Instr.wellFormed, Instr.operands, reg_inRange x], selects_X 0xF#4 x 0x29#8⟩

theorem ldB (x : Reg) : Statement (.ldB x) :=
  ⟨by simp [Instr.wellFormed, Instr.operands, reg_inRange x], selects_X 0xF#4 x 0x33#8⟩

theorem ldMemStore (x : Reg) : Statement (.ldMemStore x) :=
  ⟨by simp [Instr.wellFormed, Instr.operands, reg_inRange x], selects_X 0xF#4 x 0x55#8⟩

theorem ldMemLoad (x : Reg) : Statement (.ldMemLoad x) :=
  ⟨by simp [Instr.wellFormed, Instr.operands, reg_inRange x], selects_X 0xF#4 x 0x65#8⟩

end Sys2Proof.Laws.Encoding
end

