-- ==== Sys2Proof/Laws/Step.lean ====
section
/-! SUPPORT. What one step can do, said once: the four cases of a step (spec R59, R60, R128). -/

namespace Sys2Proof.Machine

theorem step_halted {s : State} (h : s.run = .halted) : step s = .next s := by
  simp [step, h, haltedRequest]

theorem step_faulted {s : State} {e : Fault} (h : s.run = .faulted e) : step s = .fault e := by
  simp [step, h, faultedRequest]

/-- The pc is out of bounds: the run state alone changes (R61). -/
theorem step_pcOutOfBounds {s : State} (h : s.run = .running) (hp : 4096 ≤ s.pc.toNat + 1) :
    step s = .next (s.setRun (.faulted (.pcOutOfBounds s.pc))) := by
  have hf : fetchable s = false := by
    rw [Bool.eq_false_iff]; intro hc; rw [fetchable_iff] at hc; omega
  simp [step, h, hf, raise]

/-- The word is Undefined: the fetch effects and the fault (R71). -/
theorem step_undefined {s : State} {u : Undefined} (h : s.run = .running) (hp : s.pc.toNat + 1 < 4096)
    (hd : decode (fetchWord s) = .error u) :
    step s = .next ((fetched s).setRun (.faulted (.instructionNotDefined s.pc (fetchWord s)))) := by
  simp [step, h, (fetchable_iff s).mpr hp, hd, raise]

end Sys2Proof.Machine
end

