-- ==== Sys2Proof/Tests/Slice0.lean ====
section
/-! SUPPORT. Tests of the model. Expected results come from the spec: the patterns of opcode_table.json and the vectors
of 95_test_vectors.md, whose ids stand beside each test. Then, for each statement with hypotheses, states and operands
that meet them, at the bounds of each clause. -/

namespace Sys2Proof.Tests

open Sys2Proof.Machine

/-! ## Well-formedness: an ill-formed term for each check (R58) -/

theorem test_wf_register_16 : Operand.inRange (.reg 16) = false ∧ Operand.inRange (.reg 15) = true := by decide
theorem test_wf_n_16 : Operand.inRange (.n 16) = false ∧ Operand.inRange (.n 15) = true := by decide
theorem test_wf_nn_256 : Operand.inRange (.nn 0x100) = false ∧ Operand.inRange (.nn 0xFF) = true := by decide
theorem test_wf_nnn_4096 : Operand.inRange (.nnn 0x1000) = false ∧ Operand.inRange (.nnn 0xFFF) = true := by decide

/-! ## Decoding: each constructor by a word written out from its row of opcode_table.json -/

/-- The word decodes to this instruction. -/
def decodesTo (w : Word) (i : Instr) : Bool :=
  match decode w with
  | .ok j => j == i
  | .error _ => false

/-- The word is Undefined, for this reason. -/
def undefinedAs (w : Word) (u : Undefined) : Bool :=
  match decode w with
  | .ok _ => false
  | .error e => e == u

theorem test_decode_halt : decodesTo 0b0000000000000000#16 .halt = true := by decide
theorem test_decode_cls : decodesTo 0b0000000011100000#16 .cls = true := by decide
theorem test_decode_ret : decodesTo 0b0000000011101110#16 .ret = true := by decide
theorem test_decode_jp : decodesTo 0b0001001000110100#16 (.jp 0x234) = true := by decide
theorem test_decode_call : decodesTo 0b0010111000010010#16 (.call 0xE12) = true := by decide
theorem test_decode_seImm : decodesTo 0b0011010101000010#16 (.seImm 5 0x42) = true := by decide
theorem test_decode_sneImm : decodesTo 0b0100010101000010#16 (.sneImm 5 0x42) = true := by decide
theorem test_decode_seReg : decodesTo 0b0101000100100000#16 (.seReg 1 2) = true := by decide
theorem test_decode_ldImm : decodesTo 0b0110101011111111#16 (.ldImm 0xA 0xFF) = true := by decide
theorem test_decode_addImm : decodesTo 0b0111111100000101#16 (.addImm 0xF 5) = true := by decide
theorem test_decode_ldReg : decodesTo 0b1000000100100000#16 (.ldReg 1 2) = true := by decide
theorem test_decode_or : decodesTo 0b1000000100100001#16 (.or 1 2) = true := by decide
theorem test_decode_and : decodesTo 0b1000000100100010#16 (.and 1 2) = true := by decide
theorem test_decode_xor : decodesTo 0b1000000100100011#16 (.xor 1 2) = true := by decide
theorem test_decode_addReg : decodesTo 0b1000000100100100#16 (.addReg 1 2) = true := by decide
theorem test_decode_sub : decodesTo 0b1000000100100101#16 (.sub 1 2) = true := by decide
theorem test_decode_shr : decodesTo 0b1000000100100110#16 (.shr 1 2) = true := by decide
theorem test_decode_subn : decodesTo 0b1000000100100111#16 (.subn 1 2) = true := by decide
theorem test_decode_shl : decodesTo 0b1000000100101110#16 (.shl 1 2) = true := by decide
theorem test_decode_sneReg : decodesTo 0b1001000100100000#16 (.sneReg 1 2) = true := by decide
theorem test_decode_ldI : decodesTo 0b1010001100000000#16 (.ldI 0x300) = true := by decide
theorem test_decode_jpV0 : decodesTo 0b1011111111111110#16 (.jpV0 0xFFE) = true := by decide
theorem test_decode_rnd : decodesTo 0b1100001100001111#16 (.rnd 3 0x0F) = true := by decide
theorem test_decode_drw : decodesTo 0b1101000100100101#16 (.drw 1 2 5) = true := by decide
theorem test_decode_skp : decodesTo 0b1110010010011110#16 (.skp 4) = true := by decide
theorem test_decode_sknp : decodesTo 0b1110010010100001#16 (.sknp 4) = true := by decide
theorem test_decode_ldVxDT : decodesTo 0b1111000100000111#16 (.ldVxDT 1) = true := by decide
theorem test_decode_ldVxK : decodesTo 0b1111001100001010#16 (.ldVxK 3) = true := by decide
theorem test_decode_ldDTVx : decodesTo 0b1111001000010101#16 (.ldDTVx 2) = true := by decide
theorem test_decode_ldSTVx : decodesTo 0b1111001000011000#16 (.ldSTVx 2) = true := by decide
theorem test_decode_addI : decodesTo 0b1111000100011110#16 (.addI 1) = true := by decide
theorem test_decode_ldF : decodesTo 0b1111001100101001#16 (.ldF 3) = true := by decide
theorem test_decode_ldB : decodesTo 0b1111010100110011#16 (.ldB 5) = true := by decide
theorem test_decode_ldMemStore : decodesTo 0b1111000101010101#16 (.ldMemStore 1) = true := by decide
theorem test_decode_ldMemLoad : decodesTo 0b1111001001100101#16 (.ldMemLoad 2) = true := by decide

/-- E-1 to E-3. -/
theorem test_undefined_system :
    undefinedAs 0x0001 .system = true ∧ undefinedAs 0x00E1 .system = true ∧ undefinedAs 0x0123 .system = true := by decide
/-- E-4. -/
theorem test_undefined_alu :
    undefinedAs 0x8008 .alu = true ∧ undefinedAs 0x800F .alu = true ∧ undefinedAs 0x800D .alu = true := by decide
/-- E-5. -/
theorem test_undefined_keys :
    undefinedAs 0xE000 .keys = true ∧ undefinedAs 0xE09F .keys = true ∧ undefinedAs 0xE0A2 .keys = true := by decide
/-- E-6. -/
theorem test_undefined_misc :
    undefinedAs 0xF000 .misc = true ∧ undefinedAs 0xF0FF .misc = true ∧ undefinedAs 0xF019 .misc = true ∧
      undefinedAs 0xF066 .misc = true := by decide
/-- E-7. -/
theorem test_undefined_skips : undefinedAs 0x5121 .seReg = true ∧ undefinedAs 0x912F .sneReg = true := by decide

theorem test_decode_bytes_big_endian : decodeBytes [0x12, 0x34, 0x00] = .ok (.jp 0x234, [0x00]) := rfl
theorem test_decode_bytes_truncated : decodeBytes [0x12] = .error .truncated := rfl
theorem test_decode_table_word : decodeTableWord 16 0xF265 = some (.ldMemLoad 2) := by decide
theorem test_decode_table_word_refuses : decodeTableWord 16 0x5121 = none := by decide

/-! ## One step -/

/-- The answer is a next state of which `p` holds. -/
def onNext (r : Result) (p : State → Bool) : Bool :=
  match r with
  | .next t => p t
  | _ => false

/-- The reset state with a word at 0x200. -/
def placed (w : Nat) : State := State.reset.withFetchWord 16 w

/-- The reset state with a word at the top of memory. -/
def placedAtTop (w : Nat) : State := (State.reset.setPc 0xFFE).withFetchWord 16 w

/-- S-1: the highest word. -/
theorem test_fetch_at_top : onNext (step (placedAtTop 0x6001)) (fun t => t.reg 0 == 1 && t.pc == 0x1000) = true := by
  decide
/-- S-2, S-3. -/
theorem test_pc_out_of_bounds :
    onNext (step (State.reset.setPc 0xFFF)) (fun t => t.run == .faulted (.pcOutOfBounds 0xFFF) && t.pc == 0xFFF) = true := by
  decide
/-- S-4: an odd pc. -/
theorem test_fetch_odd :
    onNext (step ((State.reset.setPc 0x201).withFetchWord 16 0x6107)) (fun t => t.reg 1 == 7 && t.pc == 0x203) = true := by
  decide
/-- S-5: a full trace drops its oldest word. -/
theorem test_trace_full :
    onNext (step ((placed 0x6001).setTrace (0x1111 :: List.replicate 13 0x2222)))
      (fun t => t.trace == List.replicate 13 0x2222 ++ [0x6001]) = true := by decide
/-- S-6: a halted core changes nothing. -/
theorem test_halted_stays : onNext (step ((placed 0x6001).setRun .halted)) (fun t => t.pc == 0x200 && t.run == .halted) = true := by
  decide
/-- E-1: the state an undefined word leaves. -/
theorem test_undefined_word :
    onNext (step (placed 0x0001)) (fun t => t.run == .faulted (.instructionNotDefined 0x200 0x0001) && t.pc == 0x202 &&
      t.trace == [0x0001]) = true := by decide

/-- CF-1. -/
theorem test_halt : onNext (step (placed 0x0000)) (fun t => t.run == .halted && t.pc == 0x202) = true := by decide
/-- CF-3. -/
theorem test_ret :
    onNext (step ((placed 0x00EE).setStack [0x555, 0x20E])) (fun t => t.pc == 0x20E && t.stack == [0x555]) = true := by
  decide
/-- CF-4. -/
theorem test_ret_empty :
    onNext (step (placed 0x00EE)) (fun t => t.run == .faulted (.stackUnderflow 0x200)) = true := by decide
/-- CF-7. -/
theorem test_jp : onNext (step (placed 0x1ABC)) (fun t => t.pc == 0xABC) = true := by decide
/-- CF-2. -/
theorem test_call : onNext (step (placed 0x2400)) (fun t => t.stack == [0x202] && t.pc == 0x400) = true := by decide

/-- A machine with a stack of two entries. -/
def smallStack : Config := { font := Config.defaultFont, stackDepth := some 2 }

/-- CF-5. -/
theorem test_call_full :
    onNext (step (((State.resetWith smallStack).withFetchWord 16 0x2500).setStack [0x202, 0x302]))
      (fun t => t.run == .faulted (.stackOverflow 0x200) && t.stack == [0x202, 0x302]) = true := by decide
/-- CF-9, CF-10. -/
theorem test_seImm :
    onNext (step ((placed 0x3542).setReg 5 0x42)) (fun t => t.pc == 0x204) = true ∧
    onNext (step ((placed 0x3542).setReg 5 0x41)) (fun t => t.pc == 0x202) = true := by decide
/-- CF-11, CF-12. -/
theorem test_sneImm :
    onNext (step ((placed 0x4542).setReg 5 0x41)) (fun t => t.pc == 0x204) = true ∧
    onNext (step ((placed 0x4542).setReg 5 0x42)) (fun t => t.pc == 0x202) = true := by decide
/-- CF-13, and CF-15's registers without a skip. -/
theorem test_seReg :
    onNext (step (placed 0x5120)) (fun t => t.pc == 0x204) = true ∧
    onNext (step ((placed 0x5120).setReg 2 1)) (fun t => t.pc == 0x202) = true := by decide
/-- CF-15, CF-16. -/
theorem test_sneReg :
    onNext (step ((placed 0x9120).setReg 2 1)) (fun t => t.pc == 0x204) = true ∧
    onNext (step ((placed 0x9330).setReg 3 1)) (fun t => t.pc == 0x202) = true := by decide
/-- CF-18. -/
theorem test_jpV0 : onNext (step ((placed 0xBFFF).setReg 0 0xFF)) (fun t => t.pc == 0x10FE) = true := by decide

/-- A-1. -/
theorem test_ldImm : onNext (step (placed 0x6AFF)) (fun t => t.reg 0xA == 0xFF) = true := by decide
/-- A-2, A-3. -/
theorem test_addImm :
    onNext (step (((placed 0x7001).setReg 0 0xFF).setReg 0xF 0x55)) (fun t => t.reg 0 == 0 && t.reg 0xF == 0x55) = true ∧
    onNext (step ((placed 0x7F05).setReg 0xF 0x10)) (fun t => t.reg 0xF == 0x15) = true := by decide
/-- A-4. -/
theorem test_ldReg : onNext (step ((placed 0x8120).setReg 2 0x7F)) (fun t => t.reg 1 == 0x7F && t.reg 2 == 0x7F) = true := by
  decide
/-- A-5. -/
theorem test_or :
    onNext (step ((((placed 0x8121).setReg 1 0x0F).setReg 2 0xF0).setReg 0xF 7))
      (fun t => t.reg 1 == 0xFF && t.reg 0xF == 7) = true := by decide
/-- A-6. -/
theorem test_and :
    onNext (step (((placed 0x8122).setReg 1 0x3C).setReg 2 0x0F)) (fun t => t.reg 1 == 0x0C) = true := by decide
/-- R91's example. -/
theorem test_xor :
    onNext (step (((placed 0x8123).setReg 1 0xFF).setReg 2 0x0F)) (fun t => t.reg 1 == 0xF0) = true := by decide
/-- A-8, A-9. -/
theorem test_addReg :
    onNext (step (((placed 0x8124).setReg 1 0xFF).setReg 2 1)) (fun t => t.reg 1 == 0 && t.reg 0xF == 1) = true ∧
    onNext (step (((placed 0x8124).setReg 1 0x80).setReg 2 0x7F)) (fun t => t.reg 1 == 0xFF && t.reg 0xF == 0) = true := by
  decide
/-- A-11: the flag is written last. -/
theorem test_addReg_flag_last :
    onNext (step (((placed 0x8F14).setReg 0xF 0xFF).setReg 1 1)) (fun t => t.reg 0xF == 1) = true := by decide
/-- A-13, A-14. -/
theorem test_sub :
    onNext (step (((placed 0x8125).setReg 1 3).setReg 2 5)) (fun t => t.reg 1 == 0xFE && t.reg 0xF == 0) = true ∧
    onNext (step (((placed 0x8125).setReg 1 5).setReg 2 5)) (fun t => t.reg 1 == 0 && t.reg 0xF == 1) = true := by decide
/-- A-16: Y = F. -/
theorem test_sub_y_is_flag :
    onNext (step (((placed 0x81F5).setReg 1 0x77).setReg 0xF 3)) (fun t => t.reg 1 == 0x74 && t.reg 0xF == 1) = true := by
  decide
/-- A-17. -/
theorem test_shr :
    onNext (step (((placed 0x8126).setReg 1 0xAA).setReg 2 5))
      (fun t => t.reg 1 == 2 && t.reg 0xF == 1 && t.reg 2 == 5) = true := by decide
/-- A-20, A-21. -/
theorem test_subn :
    onNext (step (((placed 0x8127).setReg 1 5).setReg 2 3)) (fun t => t.reg 1 == 0xFE && t.reg 0xF == 0) = true ∧
    onNext (step (((placed 0x8127).setReg 1 3).setReg 2 5)) (fun t => t.reg 1 == 2 && t.reg 0xF == 1) = true := by decide
/-- A-23, A-26. -/
theorem test_shl :
    onNext (step ((placed 0x812E).setReg 2 0x81)) (fun t => t.reg 1 == 2 && t.reg 0xF == 1) = true ∧
    onNext (step ((placed 0x8FFE).setReg 0xF 0x81)) (fun t => t.reg 0xF == 1) = true := by decide
/-- A-27: whatever draw gives 0xA7. -/
theorem test_rnd (s : State) (h : Config.randByte s.draws = 0xA7) :
    ∃ t, exec (.rnd 3 0x0F) s = .next t ∧ t.reg 3 = 0x07 :=
  ⟨_, rfl, by simp [State.setDraws, State.setReg, State.reg, h]⟩

/-- M-1. -/
theorem test_ldI : onNext (step (placed 0xAFFF)) (fun t => t.i == 0x0FFF) = true := by decide
/-- M-2, M-3. -/
theorem test_addI :
    onNext (step (((placed 0xF01E).setI 0xFFFF).setReg 0 1)) (fun t => t.i == 0) = true ∧
    onNext (step (((placed 0xF01E).setI 0x0FFE).setReg 0 4)) (fun t => t.i == 0x1002) = true := by decide
/-- M-5, M-6. -/
theorem test_ldF :
    onNext (step ((placed 0xF029).setReg 0 0xF)) (fun t => t.i == 0x14B) = true ∧
    onNext (step ((placed 0xF029).setReg 0 0xFF)) (fun t => t.i == 0x5FB) = true := by decide
/-- R104's example. -/
theorem test_ldB :
    onNext (step (((placed 0xF533).setReg 5 0x7B).setI 0x300))
      (fun t => t.byte 0x300 == 1 && t.byte 0x301 == 2 && t.byte 0x302 == 3 && t.i == 0x300) = true := by decide
/-- M-11. -/
theorem test_ldB_fault :
    onNext (step (((placed 0xF033).setReg 0 0xFF).setI 0xFFE))
      (fun t => t.run == .faulted (.memOutOfBounds 0x1000) && t.byte 0xFFE == 0) = true := by decide
/-- R105's example. -/
theorem test_store :
    onNext (step ((((placed 0xF155).setReg 0 1).setReg 1 2).setI 0x300))
      (fun t => t.byte 0x300 == 1 && t.byte 0x301 == 2 && t.i == 0x302) = true := by decide
/-- M-18. -/
theorem test_store_fault :
    onNext (step ((placed 0xF055).setI 0xFFFF)) (fun t => t.run == .faulted (.memOutOfBounds 0xFFFF) && t.i == 0xFFFF) = true := by
  decide
/-- M-15. -/
theorem test_load :
    onNext (step ((((((placed 0xF265).setByte 0x300 1).setByte 0x301 2).setByte 0x302 3).setReg 3 9).setI 0x300))
      (fun t => t.reg 0 == 1 && t.reg 1 == 2 && t.reg 2 == 3 && t.reg 3 == 9 && t.i == 0x303) = true := by decide
/-- M-17. -/
theorem test_load_fault :
    onNext (step ((placed 0xF065).setI 0x1002)) (fun t => t.run == .faulted (.memOutOfBounds 0x1002)) = true := by decide

/-- D-1. -/
theorem test_cls :
    onNext (step (((placed 0x00E0).setFb (Vector.replicate 2048 true)).setReg 0xF 5))
      (fun t => !t.pixel 63 31 && !t.pixel 0 0 && t.reg 0xF == 5) = true := by decide +kernel
/-- D-3: the wrap on both axes. -/
theorem test_drw_wraps :
    onNext (step ((((((placed 0xD122).setByte 0x300 0xF0).setByte 0x301 0x80).setI 0x300).setReg 1 62).setReg 2 31))
      (fun t => t.pixel 62 31 && t.pixel 63 31 && t.pixel 0 31 && t.pixel 1 31 && t.pixel 62 0 && !t.pixel 2 31 &&
        !t.pixel 63 0 && t.reg 0xF == 0) = true := by decide +kernel
/-- D-9, with the row F0 in plain memory: the collision. -/
theorem test_drw_collides :
    onNext (step ((((placed 0xD001).setByte 0x300 0xF0).setI 0x300).setFb
        (Framebuffer.setPixel (Vector.replicate 2048 false) 0 0 true)))
      (fun t => !t.pixel 0 0 && t.pixel 1 0 && t.pixel 3 0 && !t.pixel 4 0 && t.reg 0xF == 1) = true := by decide

/-- K-1, K-5. -/
theorem test_skp :
    onNext (step (((placed 0xE49E).setReg 4 7).setKeys ((Vector.replicate 16 false).set 7 true))) (fun t => t.pc == 0x204) = true ∧
    onNext (step ((placed 0xE49E).setReg 4 0x10)) (fun t => t.run == .faulted (.keyIndexOutOfRange 0x200 0x10)) = true := by
  decide
/-- K-3, K-4. -/
theorem test_sknp :
    onNext (step ((placed 0xE4A1).setReg 4 7)) (fun t => t.pc == 0x204) = true ∧
    onNext (step (((placed 0xE4A1).setReg 4 7).setKeys ((Vector.replicate 16 false).set 7 true))) (fun t => t.pc == 0x202) = true := by
  decide
/-- K-6. -/
theorem test_ldVxDT : onNext (step ((placed 0xF107).setDt 0x3C)) (fun t => t.reg 1 == 0x3C) = true := by decide
/-- K-7. -/
theorem test_ldVxK_waits : onNext (step (placed 0xF30A)) (fun t => t.pc == 0x200 && t.reg 3 == 0 && t.run == .running) = true := by
  decide
/-- K-8. -/
theorem test_ldVxK_lowest :
    onNext (step ((placed 0xF30A).setKeys (((Vector.replicate 16 false).set 9 true).set 12 true)))
      (fun t => t.reg 3 == 9 && t.pc == 0x202) = true := by decide
/-- K-9. -/
theorem test_ldDTVx : onNext (step ((placed 0xF015).setReg 0 9)) (fun t => t.dt == 9) = true := by decide
/-- K-10. -/
theorem test_ldSTVx : onNext (step ((placed 0xF218).setReg 2 0x1E)) (fun t => t.st == 0x1E && soundOn t) = true := by decide

/-! ## The host's moves -/

/-- K-11, K-12. -/
theorem test_tick :
    (tick (State.reset.setDt 2)).dt = 1 ∧ (tick (State.reset.setDt 2)).st = 0 ∧ (tick (State.reset.setSt 1)).st = 0 ∧
      soundOn (tick (State.reset.setSt 1)) = false := by decide
/-- R34: the keys written, 0 and 15 pressed. -/
theorem test_writeKeys :
    (writeKeys (((Vector.replicate 16 false).set 0 true).set 15 true) State.reset).keyDown 0 = true ∧
    (writeKeys (((Vector.replicate 16 false).set 0 true).set 15 true) State.reset).keyDown 15 = true ∧
    (writeKeys (((Vector.replicate 16 false).set 0 true).set 15 true) State.reset).keyDown 14 = false := by decide
/-- R33, R111: pixel (3, 2) is bit 2·64 + 3 of the read-out. -/
theorem test_fbOut_rowMajor :
    (fbOut (State.reset.setFb (Framebuffer.setPixel State.reset.fb 3 2 true)))[131]? = some true := by decide +kernel
/-- R-1, of the default font. -/
theorem test_reset_font : (List.range 5).map (fun k => State.reset.byte (0x100 + k)) = [0xF0, 0x90, 0x90, 0x90, 0xF0] := by
  decide
/-- R-3. -/
theorem test_load_image :
    (match load [0x12, 0x00, 0x00, 0x07] State.reset with
      | .ok t => t.byte 0x200 == 0x12 && t.byte 0x203 == 7 && t.pc == 0x200
      | .error _ => false) = true := by decide
/-- L1-6. -/
theorem test_load_too_long : load (List.replicate 3585 0) State.reset = .error (.tooLong 3585) := by
  unfold load
  rw [if_neg (by rw [List.length_replicate]; decide), List.length_replicate]
/-- A store in the font region reads back, and storing the reset content again lists nothing (R47). -/
theorem test_font_is_writable :
    (State.reset.setByte 0x100 7).byte 0x100 = 7 ∧ ((State.reset.setByte 0x100 7).setByte 0x100 0xF0).mem = [] := by
  decide

/-! ## Witnesses: the hypotheses of each statement can be met -/

theorem witness_DecodeOfEncode : (Instr.drw 0xF 0xF 0xF).wellFormed = true := by decide
theorem witness_EncodeOfDecode : decode 0xFF65 = .ok (.ldMemLoad 0xF) := rfl
theorem witness_OneOpcodeRowPerWord :
    decode 0xDFFF = .ok (.drw 0xF 0xF 0xF) ∧ (Instr.drw 0xF 0xF 0xF).row ∈ opcodeTable ∧ decode 0x800F = .error .alu :=
  ⟨rfl, by decide, rfl⟩
theorem witness_SystemGroupSelectsOnWholeWord :
    1 ≤ (0x0001 : Word).toNat ∧ (0x0FFF : Word).toNat ≤ 0x0FFF ∧ (0x0FFF : Word) ≠ 0x00E0 ∧ (0x0001 : Word) ≠ 0x00EE := by
  decide
theorem witness_RegisterSkipsNeedZeroN : (0x0 : Nibble) = 0 ∧ (0x1 : Nibble) ≠ 0 ∧ (0xF : Nibble) ≠ 0 := by decide
theorem witness_AluGroupSelectsOnN :
    0x8#4 ∈ [0x8#4, 0x9#4, 0xA#4, 0xB#4, 0xC#4, 0xD#4, 0xF#4] ∧ 0xF#4 ∈ [0x8#4, 0x9#4, 0xA#4, 0xB#4, 0xC#4, 0xD#4, 0xF#4] := by
  decide
theorem witness_KeyAndMiscGroupsSelectOnNN :
    0x9F#8 ∉ [0x9E#8, 0xA1#8] ∧ 0x66#8 ∉ [0x07#8, 0x0A#8, 0x15#8, 0x18#8, 0x1E#8, 0x29#8, 0x33#8, 0x55#8, 0x65#8] := by
  decide
theorem witness_StepRunsDecodedInstruction :
    (placedAtTop 0x6001).run = .running ∧ (placedAtTop 0x6001).pc.toNat + 1 < 4096 ∧
    decode ((placedAtTop 0x6001).byte 0xFFE ++ (placedAtTop 0x6001).byte 0xFFF) = .ok (.ldImm 0 1) ∧
    (Instr.ldImm 0 1).wellFormed = true := ⟨rfl, by decide, rfl, rfl⟩
theorem witness_EveryFetchIsTraced :
    (placed 0x6001).run = .running ∧ (placed 0x6001).pc.toNat + 1 < 4096 ∧
    ((placed 0x6001).setTrace (List.replicate 13 0)).trace.length < 14 ∧
    ((placed 0x6001).setTrace (List.replicate 14 0)).trace.length = 14 := by decide
theorem witness_PcOutOfBoundsChangesNothingElse :
    State.reset.run = .running ∧ 4096 ≤ (State.reset.setPc 0xFFF).pc.toNat + 1 ∧
    4096 ≤ (State.reset.setPc 0xFFFF).pc.toNat + 1 := by decide
theorem witness_UndefinedWordRaises :
    (placedAtTop 0x8008).run = .running ∧ (placedAtTop 0x8008).pc.toNat + 1 < 4096 ∧
    decode (fetchWord (placedAtTop 0x8008)) = .error .alu := ⟨rfl, by decide, rfl⟩
theorem witness_TerminalCoreDoesNotStep :
    (State.reset.setRun .halted).run = .halted ∧
    (State.reset.setRun (.faulted (.stackUnderflow 0x200))).run = .faulted (.stackUnderflow 0x200) := by decide
/-- Each of the three outcomes of a running core's step occurs. -/
theorem witness_StepOutcomeIsDetermined :
    State.reset.run = .running ∧ onNext (step (placed 0x6001)) (fun t => outcomeOut t == .cont) = true ∧
    onNext (step (placed 0x0000)) (fun t => outcomeOut t == .halt) = true ∧
    onNext (step (placed 0x00EE)) (fun t => outcomeOut t == .error (.stackUnderflow 0x200)) = true := by decide
theorem witness_RetPopsTheReturnAddress :
    (State.reset.setStack [0x206]).stack = [] ++ [0x206] ∧ State.reset.stack = [] := by decide
/-- The last free entry, and a full stack. -/
theorem witness_CallPushesTheNextAddress :
    smallStack.stackDepth = some 2 ∧ ((State.resetWith smallStack).setStack [0x202]).stack.length < 2 ∧
    2 ≤ ((State.resetWith smallStack).setStack [0x202, 0x302]).stack.length := by decide
theorem witness_RetUndoesCall : ∀ n, State.reset.cfg.stackDepth = some n → State.reset.stack.length < n :=
  fun _ h => by cases h
/-- The register beside VF, and VF itself. -/
theorem witness_AddSetsCarry : (0xE : Reg) ≠ flagReg ∧ ¬ (0xF : Reg) ≠ flagReg := by decide
theorem witness_SubtractionsSetNotBorrow : (0x0 : Reg) ≠ flagReg ∧ (0xE : Reg) ≠ flagReg := by decide
theorem witness_ShiftsTakeVY : (0x0 : Reg) ≠ flagReg ∧ (0xE : Reg) ≠ flagReg := by decide
theorem witness_RandomByteIsMasked : (0x0F : Byte).getLsbD 4 = false := by decide
theorem witness_DecimalDigitsAreStored :
    effAddr (State.reset.setI 0xFFD) 2 < 4096 ∧ 4096 ≤ effAddr (State.reset.setI 0xFFE) 2 := by decide
theorem witness_RegistersAreStored :
    effAddr (State.reset.setI 0xFF0) (0xF : Reg).toNat < 4096 ∧ 4096 ≤ effAddr (State.reset.setI 0xFF1) (0xF : Reg).toNat := by
  decide
theorem witness_RegistersAreLoaded :
    effAddr (State.reset.setI 0xFFF) (0x0 : Reg).toNat < 4096 ∧ 4096 ≤ effAddr (State.reset.setI 0x1000) (0x0 : Reg).toNat := by
  decide
theorem witness_StoreThenLoadRestoresRegisters :
    effAddr (State.reset.setI 0xFF0) (0xF : Reg).toNat < 4096 ∧ effAddr (State.reset.setI 0xFFF) (0x0 : Reg).toNat < 4096 := by
  decide
theorem witness_StoredCodeIsFetched :
    effAddr (State.reset.setI 0x1FE) (0x3 : Reg).toNat < 4096 ∧ (0x2 : Reg).toNat + 1 ≤ (0x3 : Reg).toNat ∧
    (State.reset.setI 0x1FE).pc.toNat = effAddr (State.reset.setI 0x1FE) (0x2 : Reg).toNat := by decide
/-- No row, the last row in bounds, and the first out of bounds; a lit and an unlit pixel. -/
theorem witness_DrawTogglesSpritePixels :
    (0x0 : Nibble).toNat = 0 ∧ effAddr (State.reset.setI 0xFFE) (0x2 : Nibble).toNat ≤ 4096 ∧
    4096 < effAddr (State.reset.setI 0xFFE) (0x3 : Nibble).toNat ∧
    (State.reset.setI 0x100).byte (effAddr (State.reset.setI 0x100) 0) = 0xF0 ∧ (0xF0 : Byte).getLsbD (7 - 3) = true ∧
    (0xF0 : Byte).getLsbD (7 - 4) = false := by decide
/-- With X = Y = 0, and a pixel set by the first draw. -/
theorem witness_DrawTwiceRestoresFramebuffer :
    (0x0 : Reg) ≠ flagReg ∧ effAddr (State.reset.setI 0x100) (0x1 : Nibble).toNat ≤ 4096 ∧
    onNext (exec (.drw 0 0 1) (State.reset.setI 0x100)) (fun t => t.pixel 0 0) = true := by decide
theorem witness_DrawTwiceRestoresFramebuffer_clear : ∀ px py, (State.reset.setI 0x100).pixel px py = false := by
  intro px py
  simp [State.pixel, Framebuffer.pixel, State.setI, State.reset, State.resetWith]
theorem witness_KeySkips :
    ((State.reset.setReg 4 15).reg 4).toNat = (0xF : BitVec 4).toNat ∧ 15 < ((State.reset.setReg 4 16).reg 4).toNat := by
  decide
theorem witness_KeyWait :
    (State.reset.setKeys ((Vector.replicate 16 false).set 15 true)).keyDown 15 = true ∧
    (∀ j : Fin 15, (State.reset.setKeys ((Vector.replicate 16 false).set 15 true)).keyDown (BitVec.ofNat 4 j) = false) ∧
    ∀ k : Fin 16, State.reset.keyDown (BitVec.ofFin k) = false := by decide
theorem witness_KeyWaitStepRepeats :
    (placedAtTop 0xF30A).run = .running ∧ (placedAtTop 0xF30A).pc.toNat + 1 < 4096 ∧
    fetchWord (placedAtTop 0xF30A) = 0xF#4 ++ 0x3#4 ++ 0x0A#8 := by decide
/-- The longest image that fits, and the shortest that does not. -/
theorem witness_LoadCopiesOrFails :
    (List.replicate 3584 (0 : Byte)).length ≤ 3584 ∧ 3584 < (List.replicate 3585 (0 : Byte)).length := by
  rw [List.length_replicate, List.length_replicate]; decide
theorem witness_ResetValues : (0xFF : Nat) < 0x100 ∧ (79 : Nat) < 80 ∧ 0x150 ≤ 0x150 ∧ 0xFFF < 4096 := by decide
/-- The least finite depth, and the unbounded stack. -/
theorem witness_InvariantAtReset :
    Config.WellFormed { font := Config.defaultFont, stackDepth := some 1 } ∧ Config.default.WellFormed :=
  And.intro (fun _ h => by cases h; exact Nat.le_refl 1) (fun _ h => by cases h)
/-- A state with a stack and a trace, about to CALL. -/
def callState : State := ((placed 0x2400).setStack [0x1000]).setTrace [0x1111]

theorem callState_fields :
    callState.cfg.stackDepth = none ∧ Memory.wf callState.cfg.font callState.mem = true ∧ callState.stack = [0x1000] ∧
    callState.pc = 0x200 ∧ callState.trace = [0x1111] ∧ callState.run = .running := by decide

/-- A state that meets the invariant, and whose step answers a next state. -/
theorem witness_StepKeepsInvariant : callState.Inv ∧ onNext (step callState) (fun _ => true) = true := by
  obtain ⟨hd, hm, hs, hp, ht, hr⟩ := callState_fields
  refine ⟨⟨fun n h => ?_, hm, fun n h => ?_, fun a h => ?_, ?_, ?_, fun e h => ?_⟩, by decide⟩
  · rw [hd] at h; cases h
  · rw [hd] at h; cases h
  · rw [hs, List.mem_singleton] at h; subst h; decide
  · rw [hp]; decide
  · rw [ht]; decide
  · rw [hr] at h; cases h
/-- A state that meets the invariant, a load that answers one, and reached states on both sides of the load. -/
theorem witness_HostMovesKeepInvariant :
    callState.Inv ∧ (∃ t, load [0x12, 0x00] callState = .ok t) ∧ Config.default.WellFormed ∧
    Reached Config.default .awaiting State.reset ∧ ∃ t, Reached Config.default .past t :=
  ⟨witness_StepKeepsInvariant.1, ⟨_, rfl⟩, witness_InvariantAtReset.2, Reached.construct, _,
    Reached.load [0x12, 0x00] Reached.construct rfl⟩
/-- Each fault of the execute phase occurs. -/
theorem witness_ExecuteFaultsArePrecise :
    ExecFault .ret 0x200 State.reset (.stackUnderflow 0x200) ∧
    ExecFault (.call 0) 0x200 ((State.resetWith smallStack).setStack [0x202, 0x302]) (.stackOverflow 0x200) ∧
    ExecFault (.drw 0 0 1) 0x200 (State.reset.setI 0x1000) (.memOutOfBounds 0x1000) ∧
    ExecFault (.ldB 0) 0x200 (State.reset.setI 0xFFE) (.memOutOfBounds 0x1000) ∧
    ExecFault (.skp 0) 0x200 (State.reset.setReg 0 16) (.keyIndexOutOfRange 0x200 16) := by
  refine ⟨⟨rfl, rfl⟩, ⟨⟨2, rfl, by decide⟩, rfl⟩, ⟨by decide, by decide, rfl⟩, ⟨by decide, rfl⟩, ⟨by decide, rfl⟩⟩
/-- A running core on which RET raises. -/
theorem witness_ExecuteFaultsArePrecise_converse :
    State.reset.run = .running ∧ ∃ t, exec .ret State.reset = .next t ∧ t.run = .faulted (.stackUnderflow 0x1FE) :=
  ⟨rfl, _, rfl, by decide⟩
/-- An instruction with a fault, HALT, and one with neither. -/
theorem witness_EveryInstructionKeepsItsFrame :
    ExecFault .ret 0x1FE State.reset (.stackUnderflow 0x1FE) ∧ (∀ e, ¬ ExecFault .halt 0x1FE State.reset e) ∧
    ∀ e, ¬ ExecFault .cls 0x1FE State.reset e :=
  ⟨⟨rfl, rfl⟩, fun _ h => h, fun _ h => h⟩
theorem witness_OnlyTheirWritersChangeState :
    onNext (step (placed 0x6001)) (fun t => t.reg 0 != (placed 0x6001).reg 0) = true ∧
    onNext (step (((placed 0xF055).setReg 0 7).setI 0x300)) (fun t => t.byte 0x300 != 0 && t.i != 0x300) = true ∧
    onNext (step (placed 0x2400)) (fun t => t.stack != []) = true ∧
    onNext (step ((placed 0xF015).setReg 0 7)) (fun t => t.dt != 0) = true ∧
    onNext (step ((placed 0xF018).setReg 0 7)) (fun t => t.st != 0) = true ∧
    onNext (step ((placed 0xD001).setI 0x100)) (fun t => t.pixel 0 0 != false) = true := by decide
theorem witness_TraceHasNoEffect :
    onNext (step ((placed 0x6001).setTrace [0x1111])) (fun _ => true) = true ∧
    step (State.reset.setRun (.faulted (.pcOutOfBounds 0xFFF))) = .fault (.pcOutOfBounds 0xFFF) :=
  ⟨by decide, rfl⟩
theorem witness_OnlyRandomReadsTheDraw :
    decode (fetchWord (placed 0x6001)) = .ok (.ldImm 0 1) ∧ onNext (step (placed 0x6001)) (fun _ => true) = true :=
  ⟨rfl, by decide⟩

end Sys2Proof.Tests
end

section
/-! Precise faults of the execute phase (spec R13, R43, R119, R128): with a fault of R119 an instruction answers the
state with its run state alone replaced; without one, an instruction other than HALT leaves the run state as it was. -/

namespace Sys2Proof.Machine

/-! ## The run state and the frame of a raise -/

/-- Only the run state changes when the run state is replaced (R13). -/
theorem frameList_run_setRun (s : State) (r : RunState) : FrameList [.run] s (s.setRun r) := by
  intro p hp
  cases p with
  | run => exact absurd (List.mem_singleton.mpr rfl) hp
  | _ => rfl

@[simp] theorem skipIf_run (c : Bool) (s : State) : (skipIf c s).run = s.run := by
  cases c <;> rfl

@[simp] theorem storeRegs_run (n : Nat) (s : State) : (storeRegs n s).run = s.run := by
  obtain ⟨m, hm⟩ := storeRegs_eq_setMem n s
  rw [hm, State.setMem_run]

@[simp] theorem loadRegs_run (n : Nat) (s : State) : (loadRegs n s).run = s.run := by
  obtain ⟨w, hw⟩ := loadRegs_eq_v n s
  rw [hw]

/-! ## The two ways RET, CALL, SKP and SKNP can go -/

theorem exec_ret_fault {s : State} (h : s.stack = []) :
    exec .ret s = .next (s.setRun (.faulted (.stackUnderflow (s.pc - 2)))) :=
  pop_nil (fun v t => .next (t.setPc v)) h

theorem exec_ret_ok {s : State} {l : List Word} {v : Word} (h : s.stack = l ++ [v]) :
    exec .ret s = .next ((s.setStack l).setPc v) :=
  pop_append (fun v t => .next (t.setPc v)) h

theorem exec_call_fault (nnn : Addr) {s : State} (h : stackFull s = true) :
    exec (.call nnn) s = .next (s.setRun (.faulted (.stackOverflow (s.pc - 2)))) :=
  if_pos h

theorem exec_call_ok (nnn : Addr) {s : State} (h : stackFull s = false) :
    exec (.call nnn) s = .next ((s.setStack (s.stack ++ [s.pc])).setPc (addrOf nnn)) :=
  if_neg (Bool.eq_false_iff.mp h)

theorem keyIndex_none {b : Byte} (h : 15 < b.toNat) : keyIndex b = none :=
  if_neg (Nat.not_le.mpr h)

theorem keyIndex_some {b : Byte} (h : b.toNat ≤ 15) : keyIndex b = some (b.setWidth 4) :=
  if_pos h

theorem exec_skp_fault {x : Reg} {s : State} (h : 15 < (s.reg x).toNat) :
    exec (.skp x) s = .next (s.setRun (.faulted (.keyIndexOutOfRange (s.pc - 2) (s.reg x)))) := by
  show execSkp x s = _
  rw [execSkp, keyIndex_none h]
  rfl

theorem exec_skp_ok {x : Reg} {s : State} (h : (s.reg x).toNat ≤ 15) :
    exec (.skp x) s = .next (skipIf (s.keyDown ((s.reg x).setWidth 4)) s) := by
  show execSkp x s = _
  rw [execSkp, keyIndex_some h]

theorem exec_sknp_fault {x : Reg} {s : State} (h : 15 < (s.reg x).toNat) :
    exec (.sknp x) s = .next (s.setRun (.faulted (.keyIndexOutOfRange (s.pc - 2) (s.reg x)))) := by
  show execSknp x s = _
  rw [execSknp, keyIndex_none h]
  rfl

theorem exec_sknp_ok {x : Reg} {s : State} (h : (s.reg x).toNat ≤ 15) :
    exec (.sknp x) s = .next (skipIf (!s.keyDown ((s.reg x).setWidth 4)) s) := by
  show execSknp x s = _
  rw [execSknp, keyIndex_some h]

/-! ## HALT, and FX0A, which waits or takes a key -/

/-- R76: HALT answers the state as it was, halted. -/
theorem exec_halt (s : State) : exec .halt s = .next (s.setRun .halted) := rfl

theorem exec_ldVxK_wait (x : Reg) {s : State} (h : lowestKey s = none) :
    exec (.ldVxK x) s = .next (s.setPc (s.pc - 2)) := by
  show execLdVxK x s = _
  rw [execLdVxK, h]
  rfl

theorem exec_ldVxK_key (x : Reg) {s : State} {k : BitVec 4} (h : lowestKey s = some k) :
    exec (.ldVxK x) s = .next (s.setReg x (byteOfKey k)) := by
  show execLdVxK x s = _
  rw [execLdVxK, h]

/-! ## Every instruction, with and without a fault -/

/-- R13, R119: an instruction with a fault answers the state as it was, in `Faulted(e)`. -/
theorem exec_of_execFault {i : Instr} {s : State} {e : Fault} (h : ExecFault i (s.pc - 2) s e) :
    exec i s = .next (s.setRun (.faulted e)) := by
  cases i with
  | ret => obtain ⟨hs, rfl⟩ := h; exact exec_ret_fault hs
  | call nnn => obtain ⟨hs, rfl⟩ := h; exact exec_call_fault nnn ((stackFull_iff s).mpr hs)
  | drw x y n => obtain ⟨h0, hn, rfl⟩ := h; exact exec_drw_fault x y n s h0 hn
  | skp x => obtain ⟨hk, rfl⟩ := h; exact exec_skp_fault hk
  | sknp x => obtain ⟨hk, rfl⟩ := h; exact exec_sknp_fault hk
  | ldB x => obtain ⟨ha, rfl⟩ := h; exact exec_ldB_fault x s ha
  | ldMemStore x => obtain ⟨ha, rfl⟩ := h; exact exec_ldMemStore_fault x s ha
  | ldMemLoad x => obtain ⟨ha, rfl⟩ := h; exact exec_ldMemLoad_fault x s ha
  | _ => exact h.elim

/-- R119: an instruction without a fault, other than HALT, answers a state with the run state as it was. -/
theorem exec_run_of_not_execFault {i : Instr} {s : State} (hi : i ≠ .halt)
    (h : ∀ e, ¬ ExecFault i (s.pc - 2) s e) : ∃ t, exec i s = .next t ∧ t.run = s.run := by
  cases i with
  | halt => exact absurd rfl hi
  | ret =>
    obtain hs | ⟨l, v, hs⟩ := stack_cases s
    · exact absurd ⟨hs, rfl⟩ (h _)
    · exact ⟨_, exec_ret_ok hs, rfl⟩
  | call nnn =>
    have hs : stackFull s = false :=
      Bool.eq_false_iff.mpr fun hf => h _ ⟨(stackFull_iff s).mp hf, rfl⟩
    exact ⟨_, exec_call_ok nnn hs, rfl⟩
  | drw x y n =>
    have hn : n.toNat = 0 ∨ effAddr s n.toNat ≤ 4096 :=
      (Nat.eq_zero_or_pos _).imp_right fun h0 => Nat.not_lt.mp fun hb => h _ ⟨h0, hb, rfl⟩
    obtain ⟨_, -, hd⟩ := exec_drw_ok x y n s hn
    exact ⟨_, hd, rfl⟩
  | skp x => exact ⟨_, exec_skp_ok (Nat.not_lt.mp fun hk => h _ ⟨hk, rfl⟩), skipIf_run _ s⟩
  | sknp x => exact ⟨_, exec_sknp_ok (Nat.not_lt.mp fun hk => h _ ⟨hk, rfl⟩), skipIf_run _ s⟩
  | ldB x => exact ⟨_, exec_ldB_ok x s (Nat.not_le.mp fun ha => h _ ⟨ha, rfl⟩), rfl⟩
  | ldMemStore x =>
    exact ⟨_, exec_ldMemStore_ok x s (Nat.not_le.mp fun ha => h _ ⟨ha, rfl⟩), storeRegs_run _ s⟩
  | ldMemLoad x =>
    exact ⟨_, exec_ldMemLoad_ok x s (Nat.not_le.mp fun ha => h _ ⟨ha, rfl⟩), loadRegs_run _ s⟩
  | seImm | sneImm | seReg | sneReg => exact ⟨_, rfl, skipIf_run _ s⟩
  | ldVxK x =>
    cases hk : lowestKey s with
    | none => exact ⟨_, exec_ldVxK_wait x hk, rfl⟩
    | some k => exact ⟨_, exec_ldVxK_key x hk, rfl⟩
  | _ => exact ⟨_, rfl, rfl⟩

/-- R119: a running core that faults in execute ran an instruction with a fault. -/
theorem exists_execFault_of_run_faulted {i : Instr} {s t : State} {e : Fault} (hr : s.run = .running)
    (ht : exec i s = .next t) (he : t.run = .faulted e) : ∃ e', ExecFault i (s.pc - 2) s e' := by
  by_contra hn
  by_cases hi : i = .halt
  · subst hi
    obtain rfl := Host.Outcome.next.inj ((exec_halt s).symm.trans ht)
    cases he
  · obtain ⟨t', ht', hrun⟩ := exec_run_of_not_execFault hi (not_exists.mp hn)
    obtain rfl := Host.Outcome.next.inj (ht'.symm.trans ht)
    cases he.symm.trans (hrun.trans hr)

/-- Settles O57: an instruction with a fault of R119 answers the state in `Faulted(e)`, and a running core faults in no
other way, so the fault it shows is that one. -/
theorem executeFaultsArePrecise : Obligations.ExecuteFaultsArePrecise := by
  intro i s e
  refine ⟨fun h => ⟨_, exec_of_execFault h, rfl, frameList_run_setRun s _⟩, fun t hr ht he => ?_⟩
  obtain ⟨e', hf⟩ := exists_execFault_of_run_faulted hr ht he
  obtain rfl := Host.Outcome.next.inj ((exec_of_execFault hf).symm.trans ht)
  obtain rfl := RunState.faulted.inj he
  exact ⟨hf, frameList_run_setRun s _⟩

end Sys2Proof.Machine
end

section
/-! What an instruction answers (spec R13, R29, R30, R43, R115, R118), as one rule for each instruction with more than
one way to go: a claim about its answer is a claim about each of the states it may leave. -/

namespace Sys2Proof.Machine

/-- The answer is a next state with property `P`. -/
def Answers (P : State → Prop) (r : Result) : Prop := ∃ t, r = .next t ∧ P t

variable {P : State → Prop} {s : State}

theorem answers_next {t : State} (h : P t) : Answers P (.next t) := ⟨t, rfl, h⟩

theorem Answers.of_next {r : Result} {t : State} (h : Answers P r) (ht : r = .next t) : P t := by
  obtain ⟨u, hu, hP⟩ := h
  obtain rfl := Host.Outcome.next.inj (hu.symm.trans ht)
  exact hP

/-! ## The instructions that can raise, and FX0A -/

theorem exec_ret_answers (hfault : s.stack = [] → P (s.setRun (.faulted (.stackUnderflow (s.pc - 2)))))
    (hok : ∀ l v, s.stack = l ++ [v] → P ((s.setStack l).setPc v)) : Answers P (exec .ret s) := by
  obtain h | ⟨l, v, h⟩ := stack_cases s
  · exact ⟨_, exec_ret_fault h, hfault h⟩
  · exact ⟨_, exec_ret_ok h, hok l v h⟩

theorem exec_call_answers {nnn : Addr}
    (hfault : stackFull s = true → P (s.setRun (.faulted (.stackOverflow (s.pc - 2)))))
    (hok : stackFull s = false → P ((s.setStack (s.stack ++ [s.pc])).setPc (addrOf nnn))) :
    Answers P (exec (.call nnn) s) := by
  cases h : stackFull s with
  | true => exact ⟨_, exec_call_fault nnn h, hfault h⟩
  | false => exact ⟨_, exec_call_ok nnn h, hok h⟩

variable {x : Reg}

theorem exec_drw_answers {y : Reg} {n : Nibble}
    (hfault : 0 < n.toNat → 4096 < effAddr s n.toNat →
      P (s.setRun (.faulted (.memOutOfBounds (max (effAddr s 0) 4096)))))
    (hok : n.toNat = 0 ∨ effAddr s n.toNat ≤ 4096 → ∀ d,
      d = drawSprite (s.reg x).toNat (s.reg y).toNat n.toNat (fun row => s.byte (effAddr s row)) s.fb →
      P (((s.setReg flagReg 0).setFb d.1).setReg flagReg (flagOf d.2))) : Answers P (exec (.drw x y n) s) := by
  by_cases hb : n.toNat = 0 ∨ effAddr s n.toNat ≤ 4096
  · obtain ⟨d, hd, he⟩ := exec_drw_ok x y n s hb
    exact ⟨_, he, hok hb d hd⟩
  · obtain ⟨h0, hn⟩ : 0 < n.toNat ∧ 4096 < effAddr s n.toNat := by omega
    exact ⟨_, exec_drw_fault x y n s h0 hn, hfault h0 hn⟩

theorem exec_ldB_answers
    (hfault : 4096 ≤ effAddr s 2 → P (s.setRun (.faulted (.memOutOfBounds (max (effAddr s 0) 4096)))))
    (hok : effAddr s 2 < 4096 →
      P (s.setMem (Memory.writeBytes s.cfg.font s.mem (effAddr s 0) (decimalDigits (s.reg x))))) :
    Answers P (exec (.ldB x) s) := by
  obtain h | h := Nat.lt_or_ge (effAddr s 2) 4096
  · exact ⟨_, exec_ldB_ok x s h, hok h⟩
  · exact ⟨_, exec_ldB_fault x s h, hfault h⟩

theorem exec_ldMemStore_answers
    (hfault : 4096 ≤ effAddr s x.toNat → P (s.setRun (.faulted (.memOutOfBounds (max (effAddr s 0) 4096)))))
    (hok : effAddr s x.toNat < 4096 → P ((storeRegs (x.toNat + 1) s).setI (advancedI s x))) :
    Answers P (exec (.ldMemStore x) s) := by
  obtain h | h := Nat.lt_or_ge (effAddr s x.toNat) 4096
  · exact ⟨_, exec_ldMemStore_ok x s h, hok h⟩
  · exact ⟨_, exec_ldMemStore_fault x s h, hfault h⟩

theorem exec_ldMemLoad_answers
    (hfault : 4096 ≤ effAddr s x.toNat → P (s.setRun (.faulted (.memOutOfBounds (max (effAddr s 0) 4096)))))
    (hok : effAddr s x.toNat < 4096 → P ((loadRegs (x.toNat + 1) s).setI (advancedI s x))) :
    Answers P (exec (.ldMemLoad x) s) := by
  obtain h | h := Nat.lt_or_ge (effAddr s x.toNat) 4096
  · exact ⟨_, exec_ldMemLoad_ok x s h, hok h⟩
  · exact ⟨_, exec_ldMemLoad_fault x s h, hfault h⟩

theorem exec_skp_answers
    (hfault : 15 < (s.reg x).toNat → P (s.setRun (.faulted (.keyIndexOutOfRange (s.pc - 2) (s.reg x)))))
    (hok : (s.reg x).toNat ≤ 15 → P (skipIf (s.keyDown ((s.reg x).setWidth 4)) s)) :
    Answers P (exec (.skp x) s) := by
  obtain h | h := Nat.lt_or_ge 15 (s.reg x).toNat
  · exact ⟨_, exec_skp_fault h, hfault h⟩
  · exact ⟨_, exec_skp_ok h, hok h⟩

theorem exec_sknp_answers
    (hfault : 15 < (s.reg x).toNat → P (s.setRun (.faulted (.keyIndexOutOfRange (s.pc - 2) (s.reg x)))))
    (hok : (s.reg x).toNat ≤ 15 → P (skipIf (!s.keyDown ((s.reg x).setWidth 4)) s)) :
    Answers P (exec (.sknp x) s) := by
  obtain h | h := Nat.lt_or_ge 15 (s.reg x).toNat
  · exact ⟨_, exec_sknp_fault h, hfault h⟩
  · exact ⟨_, exec_sknp_ok h, hok h⟩

theorem exec_ldVxK_answers (hwait : lowestKey s = none → P (s.setPc (s.pc - 2)))
    (hkey : ∀ k, lowestKey s = some k → P (s.setReg x (byteOfKey k))) : Answers P (exec (.ldVxK x) s) := by
  cases h : lowestKey s with
  | none => exact ⟨_, exec_ldVxK_wait x h, hwait h⟩
  | some k => exact ⟨_, exec_ldVxK_key x h, hkey k h⟩

end Sys2Proof.Machine
end

section
/-! Frames (spec R14): one rule for each state operation, which asks that the operation's pieces be among those that may
change; and the frame of every instruction, which settles O56. -/

namespace Sys2Proof.Machine

variable {T : Piece → Prop} {s : State}

theorem Frame.refl (T : Piece → Prop) (s : State) : Frame T s s := fun p _ => by cases p <;> rfl

theorem Piece.same_trans {p : Piece} {s t u : State} (h : p.same s t) (h' : p.same t u) : p.same s u := by
  cases p <;> exact Eq.trans h' h

theorem Frame.trans {t u : State} (h : Frame T s t) (h' : Frame T t u) : Frame T s u :=
  fun p hp => Piece.same_trans (h p hp) (h' p hp)

theorem Frame.mono {T' : Piece → Prop} {t : State} (hT : ∀ p, T p → T' p) (h : Frame T s t) : Frame T' s t :=
  fun p hp => h p fun hp' => hp (hT p hp')

/-- A piece that reads otherwise was one that may change. -/
theorem Frame.touched {t : State} {p : Piece} (h : Frame T s t) (hp : ¬ p.same s t) : T p :=
  by_contra fun hT => hp (h p hT)

/-! ## The operations -/

theorem frame_setReg {x : Reg} (b : Byte) (hT : T (.reg x)) : Frame T s (s.setReg x b) := by
  intro p hp
  cases p with
  | reg r => exact State.setReg_reg_ne s b fun hr => hp (hr ▸ hT)
  | _ => rfl

theorem frame_setI (a : Word) (hT : T .index) : Frame T s (s.setI a) := by
  intro p hp
  cases p with
  | index => exact absurd hT hp
  | _ => rfl

theorem frame_setPc (a : Word) (hT : T .pc) : Frame T s (s.setPc a) := by
  intro p hp
  cases p with
  | pc => exact absurd hT hp
  | _ => rfl

theorem frame_setStack (l : List Word) (hT : T .stack) : Frame T s (s.setStack l) := by
  intro p hp
  cases p with
  | stack => exact absurd hT hp
  | _ => rfl

theorem frame_setDt (b : Byte) (hT : T .delay) : Frame T s (s.setDt b) := by
  intro p hp
  cases p with
  | delay => exact absurd hT hp
  | _ => rfl

theorem frame_setSt (b : Byte) (hT : T .sound) : Frame T s (s.setSt b) := by
  intro p hp
  cases p with
  | sound => exact absurd hT hp
  | _ => rfl

theorem frame_setFb (f : Framebuffer) (hT : ∀ x y, T (.pixel x y)) : Frame T s (s.setFb f) := by
  intro p hp
  cases p with
  | pixel x y => exact absurd (hT x y) hp
  | _ => rfl

theorem frame_setMem {m : Memory} (hT : ∀ a, ¬ T (.byte a) → Memory.read s.cfg.font m a = s.byte a) :
    Frame T s (s.setMem m) := by
  intro p hp
  cases p with
  | byte a => exact hT a hp
  | _ => rfl

theorem frame_setTrace (l : List Word) (hT : T .trace) : Frame T s (s.setTrace l) := by
  intro p hp
  cases p with
  | trace => exact absurd hT hp
  | _ => rfl

theorem frame_setRun (r : RunState) (hT : T .run) : Frame T s (s.setRun r) :=
  (frameList_run_setRun s r).mono fun p hp => by rwa [List.mem_singleton.mp hp]

theorem frame_setKeys (keys : Vector Bool 16) (hT : ∀ k, T (.key k)) : Frame T s (s.setKeys keys) := by
  intro p hp
  cases p with
  | key k => exact absurd (hT k) hp
  | _ => rfl

theorem frame_setDraws (n : Nat) (hT : T .draws) : Frame T s (s.setDraws n) := by
  intro p hp
  cases p with
  | draws => exact absurd hT hp
  | _ => rfl

theorem frame_skipIf (c : Bool) (hT : T .pc) : Frame T s (skipIf c s) := by
  cases c with
  | false => exact Frame.refl T s
  | true => exact frame_setPc _ hT

theorem frame_writeBytes {a : Nat} {bs : List Byte} (ha : a + bs.length ≤ 4096)
    (hT : ∀ c, a ≤ c → c < a + bs.length → T (.byte c)) :
    Frame T s (s.setMem (Memory.writeBytes s.cfg.font s.mem a bs)) :=
  frame_setMem fun c hc =>
    (Memory.read_writeBytes _ _ _ _ _ ha).trans (if_neg fun ⟨hlo, hhi⟩ => hc (hT c hlo hhi))

theorem frame_storeRegs {n : Nat} (hn : s.i.toNat + n ≤ 4096)
    (hT : ∀ a, s.i.toNat ≤ a → a < s.i.toNat + n → T (.byte a)) : Frame T s (storeRegs n s) := by
  obtain ⟨m, hm⟩ := storeRegs_eq_setMem n s
  rw [hm]
  refine frame_setMem fun a ha => ?_
  have hb := storeRegs_byte n s a hn
  rw [hm, if_neg fun ⟨hlo, hhi⟩ => ha (hT a hlo hhi)] at hb
  exact hb

theorem frame_loadRegs {n : Nat} (hn : n ≤ 16) (hT : ∀ r : Reg, r.toNat < n → T (.reg r)) :
    Frame T s (loadRegs n s) := by
  obtain ⟨w, hw⟩ := loadRegs_eq_v n s
  intro p hp
  cases p with
  | reg r => exact (loadRegs_reg n hn s r).trans (if_neg fun hr => hp (hT r hr))
  | _ => rw [hw]; rfl

theorem frame_fetched (htrace : T .trace) (hpc : T .pc) : Frame T s (fetched s) :=
  (frame_setTrace _ htrace).trans (frame_setPc _ hpc)

/-! ## Instructions -/

/-- R19, R20, R27, R31, R33, R34, R42: every instruction answers a next state and keeps to its row of the writers'
tables. -/
theorem exec_frame (i : Instr) (s : State) : Answers (Frame (writes i s) s) (exec i s) := by
  cases i with
  | halt => exact answers_next (frame_setRun _ trivial)
  | cls => exact answers_next (frame_setFb _ fun _ _ => trivial)
  | ret =>
    exact exec_ret_answers (fun _ => frame_setRun _ trivial) fun _ _ _ =>
      (frame_setStack _ trivial).trans (frame_setPc _ trivial)
  | call =>
    exact exec_call_answers (fun _ => frame_setRun _ trivial) fun _ =>
      (frame_setStack _ trivial).trans (frame_setPc _ trivial)
  | jp | jpV0 => exact answers_next (frame_setPc _ trivial)
  | seImm | sneImm | seReg | sneReg => exact answers_next (frame_skipIf _ trivial)
  | ldImm | addImm | ldReg | or | and | xor | ldVxDT => exact answers_next (frame_setReg _ rfl)
  | addReg | sub | shr | subn | shl =>
    exact answers_next ((frame_setReg _ (.inl rfl)).trans (frame_setReg _ (.inr rfl)))
  | ldI | addI | ldF => exact answers_next (frame_setI _ trivial)
  | rnd x nn =>
    refine answers_next ((frame_setReg _ ?_).trans (frame_setDraws _ ?_))
    exacts [rfl, ⟨x, nn, rfl⟩]
  | drw =>
    refine exec_drw_answers (fun _ _ => frame_setRun _ trivial) fun _ _ _ =>
      ((frame_setReg _ ?_).trans (frame_setFb _ fun _ _ => ?_)).trans (frame_setReg _ ?_)
    exacts [rfl, trivial, rfl]
  | skp => exact exec_skp_answers (fun _ => frame_setRun _ trivial) fun _ => frame_skipIf _ trivial
  | sknp => exact exec_sknp_answers (fun _ => frame_setRun _ trivial) fun _ => frame_skipIf _ trivial
  | ldVxK => exact exec_ldVxK_answers (fun _ => frame_setPc _ trivial) fun _ _ => frame_setReg _ rfl
  | ldDTVx => exact answers_next (frame_setDt _ ⟨_, rfl⟩)
  | ldSTVx => exact answers_next (frame_setSt _ ⟨_, rfl⟩)
  | ldB =>
    exact exec_ldB_answers (fun _ => frame_setRun _ trivial) fun h =>
      frame_writeBytes (Nat.succ_le_of_lt h) fun a hlo hhi => ⟨hlo, Nat.le_of_lt_succ hhi⟩
  | ldMemStore =>
    exact exec_ldMemStore_answers (fun _ => frame_setRun _ trivial) fun h =>
      (frame_storeRegs (Nat.succ_le_of_lt h) fun a hlo hhi => ⟨hlo, Nat.le_of_lt_succ hhi⟩).trans
        (frame_setI _ trivial)
  | ldMemLoad x =>
    exact exec_ldMemLoad_answers (fun _ => frame_setRun _ trivial) fun _ =>
      (frame_loadRegs x.isLt fun r hr => Nat.le_of_lt_succ hr).trans (frame_setI _ trivial)

/-- Settles O56: the frame of every instruction, and the run state that its fault of R119, or none, gives it. -/
theorem everyInstructionKeepsItsFrame : Obligations.EveryInstructionKeepsItsFrame := by
  intro i s
  obtain ⟨t, ht, hframe⟩ := exec_frame i s
  refine ⟨t, ht, hframe, fun e he => ?_, fun hn => ?_⟩
  · obtain rfl := Host.Outcome.next.inj ((exec_of_execFault he).symm.trans ht)
    exact State.setRun_run s _
  · by_cases hi : i = .halt
    · subst hi
      obtain rfl := Host.Outcome.next.inj ((exec_halt s).symm.trans ht)
      exact State.setRun_run s _
    · obtain ⟨u, hu, hrun⟩ := exec_run_of_not_execFault hi hn
      obtain rfl := Host.Outcome.next.inj (hu.symm.trans ht)
      rw [if_neg hi, hrun]

end Sys2Proof.Machine
end

section
/-! What one step can do, said once (spec R59, R60, R128), and the writers' tables through it (R19, R20, R27, R31, R33,
R34, R42): beside the trace, the pc and the run state, a step changes only what the instruction it decodes may write. -/

namespace Sys2Proof.Machine

/-! ## The cases of a step -/

/-- R59, R60, R128: what a step in state `s` answers. A terminal core answers its outcome; a running one raises before
the fetch, raises in the decode, or executes. -/
inductive StepCase (s : State) : Result → Prop where
  | halted (hr : s.run = .halted) : StepCase s (.next s)
  | faulted {e : Fault} (hr : s.run = .faulted e) : StepCase s (.fault e)
  | pcOutOfBounds (hr : s.run = .running) (hp : 4096 ≤ s.pc.toNat + 1) :
      StepCase s (.next (s.setRun (.faulted (.pcOutOfBounds s.pc))))
  | undefined {u : Undefined} (hr : s.run = .running) (hp : s.pc.toNat + 1 < 4096)
      (hd : decode (fetchWord s) = .error u) :
      StepCase s (.next ((fetched s).setRun (.faulted (.instructionNotDefined s.pc (fetchWord s)))))
  | executed {i : Instr} {t : State} (hr : s.run = .running) (hp : s.pc.toNat + 1 < 4096)
      (hd : decode (fetchWord s) = .ok i) (hexec : exec i (fetched s) = .next t) : StepCase s (.next t)

theorem step_decoded {s : State} {i : Instr} (h : s.run = .running) (hp : s.pc.toNat + 1 < 4096)
    (hd : decode (fetchWord s) = .ok i) : step s = exec i (fetched s) := by
  simp [step, h, (fetchable_iff s).mpr hp, hd]

theorem stepCase (s : State) : StepCase s (step s) := by
  cases hr : s.run with
  | halted => rw [step_halted hr]; exact .halted hr
  | faulted e => rw [step_faulted hr]; exact .faulted hr
  | running =>
    obtain hp | hp := Nat.lt_or_ge (s.pc.toNat + 1) 4096
    · cases hd : decode (fetchWord s) with
      | error u => rw [step_undefined hr hp hd]; exact .undefined hr hp hd
      | ok i =>
        obtain ⟨t, ht, -⟩ := exec_frame i (fetched s)
        rw [step_decoded hr hp hd, ht]
        exact .executed hr hp hd ht
    · rw [step_pcOutOfBounds hr hp]; exact .pcOutOfBounds hr hp

/-! ## The frame of a step -/

/-- The pieces a step in state `s` may change. -/
def stepWrites (s : State) : Piece → Prop
  | .pc => True
  | .trace => True
  | .run => True
  | p => ∃ i, decode (fetchWord s) = .ok i ∧ writes i s p

/-- The fetch leaves I as it was, so it moves no address of R42's table. -/
theorem writes_fetched (i : Instr) (s : State) : writes i (fetched s) = writes i s := rfl

theorem stepWrites_of_writes {s : State} {i : Instr} (hd : decode (fetchWord s) = .ok i) {p : Piece}
    (hp : writes i s p) : stepWrites s p := by
  cases p with
  | pc | trace | run => trivial
  | _ => exact ⟨i, hd, hp⟩

theorem step_frame {s t : State} (h : step s = .next t) : Frame (stepWrites s) s t := by
  cases h ▸ stepCase s with
  | halted => exact Frame.refl _ _
  | pcOutOfBounds => exact frame_setRun _ trivial
  | undefined => exact (frame_fetched trivial trivial).trans (frame_setRun _ trivial)
  | executed _ _ hd hexec =>
    have hi := (exec_frame _ (fetched s)).of_next hexec
    rw [writes_fetched] at hi
    exact (frame_fetched trivial trivial).trans (hi.mono fun _ => stepWrites_of_writes hd)

/-- Settles O58, from the frame of a step. -/
theorem onlyTheirWritersChangeState : Obligations.OnlyTheirWritersChangeState := by
  intro s t h
  have hf := step_frame h
  refine ⟨fun r hr => hf.touched (p := .reg r) hr, fun a ha => hf.touched (p := .byte a) ha,
    fun hi => hf.touched (p := .index) hi, fun hs => hf.touched (p := .stack) hs, fun hdt => ?_, fun hst => ?_,
    fun x y hp => hf.touched (p := .pixel x y) hp, fun k => hf (.key k) ?_, hf .config ?_⟩
  · obtain ⟨_, hd, x, rfl⟩ := hf.touched (p := .delay) hdt
    exact ⟨x, hd⟩
  · obtain ⟨_, hd, x, rfl⟩ := hf.touched (p := .sound) hst
    exact ⟨x, hd⟩
  · exact fun ⟨_, _, hw⟩ => hw
  · exact fun ⟨_, _, hw⟩ => hw

end Sys2Proof.Machine
end

section
/-! The invariant of the core (spec R21, R24, R28, R35, R119): it holds at construction, one rule for each state
operation says what the operation needs to keep it, and every instruction and so every step keeps it. -/

namespace Sys2Proof.Machine

/-- Settles O53: the lists are empty, the pc is 0x200, and no fault is shown. -/
theorem invariantAtReset : Obligations.InvariantAtReset := fun c hc =>
  { config := hc
    memory := resetWith_wf c
    depth := fun _ _ => Nat.zero_le _
    returns := nofun
    pc := (by decide : (0x200 : Word).toNat ≤ 0x10FE)
    trace := Nat.zero_le _
    record := nofun }

/-! ## The operations that keep the invariant -/

variable {s : State}

theorem State.Inv.setReg (h : s.Inv) (x : Reg) (b : Byte) : (s.setReg x b).Inv := { h with }

theorem State.Inv.setI (h : s.Inv) (a : Word) : (s.setI a).Inv := { h with }

theorem State.Inv.setDt (h : s.Inv) (b : Byte) : (s.setDt b).Inv := { h with }

theorem State.Inv.setSt (h : s.Inv) (b : Byte) : (s.setSt b).Inv := { h with }

theorem State.Inv.setFb (h : s.Inv) (f : Framebuffer) : (s.setFb f).Inv := { h with }

theorem State.Inv.setDraws (h : s.Inv) (n : Nat) : (s.setDraws n).Inv := { h with }

theorem State.Inv.setPc (h : s.Inv) {a : Word} (ha : a.toNat ≤ 0x10FE) : (s.setPc a).Inv := { h with pc := ha }

theorem State.Inv.setMem (h : s.Inv) {m : Memory} (hm : Memory.wf s.cfg.font m = true) : (s.setMem m).Inv :=
  { h with memory := hm }

theorem State.Inv.setTrace (h : s.Inv) {l : List Word} (hl : l.length ≤ 14) : (s.setTrace l).Inv :=
  { h with trace := hl }

theorem State.Inv.setStack (h : s.Inv) {l : List Word} (hd : ∀ n, s.cfg.stackDepth = some n → l.length ≤ n)
    (hr : ∀ a ∈ l, 2 ≤ a.toNat ∧ a.toNat ≤ 0x1000) : (s.setStack l).Inv :=
  { h with depth := hd, returns := hr }

theorem State.Inv.halted (h : s.Inv) : (s.setRun .halted).Inv := { h with record := nofun }

theorem State.Inv.faulted (h : s.Inv) {e : Fault} (he : e.Recorded s.cfg) : (s.setRun (.faulted e)).Inv :=
  { h with record := fun _ hr => RunState.faulted.inj hr ▸ he }

/-- R28: a push on a stack that is not full stays within the depth. -/
theorem State.Inv.push (h : s.Inv) {v : Word} (hf : stackFull s = false) (hv : 2 ≤ v.toNat ∧ v.toNat ≤ 0x1000) :
    (s.setStack (s.stack ++ [v])).Inv := by
  refine h.setStack (fun n hn => ?_) (fun a ha => ?_)
  · have hroom : ¬ n ≤ s.stack.length := fun hle => Bool.eq_false_iff.mp hf ((stackFull_iff s).mpr ⟨n, hn, hle⟩)
    rw [List.length_append, List.length_singleton]
    omega
  · obtain ha | ha := List.mem_append.mp ha
    · exact h.returns a ha
    · rwa [List.mem_singleton.mp ha]

/-- R30: a pop leaves a stack within the depth, and what it gives is the address after a word. -/
theorem State.Inv.pop (h : s.Inv) {l : List Word} {v : Word} (hs : s.stack = l ++ [v]) :
    (s.setStack l).Inv ∧ v.toNat ≤ 0x1000 := by
  have hr : ∀ a ∈ l ++ [v], 2 ≤ a.toNat ∧ a.toNat ≤ 0x1000 := hs ▸ h.returns
  refine ⟨h.setStack (fun n hn => ?_) fun a ha => hr a (List.mem_append_left _ ha), ?_⟩
  · have hl := h.depth n hn
    rw [hs, List.length_append] at hl
    exact Nat.le_of_add_right_le hl
  · exact (hr v (List.mem_append_right _ List.mem_cons_self)).2

theorem State.Inv.skipIf (h : s.Inv) (c : Bool) (hp : s.pc.toNat ≤ 0x1000) : (skipIf c s).Inv := by
  cases c with
  | false => exact h
  | true =>
    rw [skipIf_true]
    exact h.setPc (by bv_omega)

theorem State.Inv.storeRegs (h : s.Inv) (n : Nat) : (storeRegs n s).Inv := by
  induction n with
  | zero => exact h
  | succ n ih =>
    rw [storeRegs_succ]
    exact ih.setMem (Memory.wf_write _ _ ih.memory)

theorem State.Inv.loadRegs (h : s.Inv) (n : Nat) : (loadRegs n s).Inv := by
  obtain ⟨w, hw⟩ := loadRegs_eq_v n s
  rw [hw]
  exact { h with }

/-! ## Addresses and records -/

theorem addrOf_toNat (nnn : Addr) : (addrOf nnn).toNat = nnn.toNat :=
  BitVec.toNat_setWidth_of_le (by decide)

theorem wordOfByte_toNat (b : Byte) : (wordOfByte b).toNat = b.toNat :=
  BitVec.toNat_setWidth_of_le (by decide)

theorem addrOf_le (nnn : Addr) : (addrOf nnn).toNat ≤ 0x10FE := by
  have hn : nnn.toNat < 0x1000 := nnn.isLt
  rw [addrOf_toNat]
  omega

/-- R21, R84: the largest value a jump writes. -/
theorem jumpV0_le (nnn : Addr) (b : Byte) : (addrOf nnn + wordOfByte b).toNat ≤ 0x10FE := by
  have hn : nnn.toNat < 0x1000 := nnn.isLt
  have hb : b.toNat < 0x100 := b.isLt
  rw [BitVec.toNat_add, addrOf_toNat, wordOfByte_toNat]
  omega

/-- R122: the address a block's fault reports lies outside memory and is at most I, the block's base. -/
theorem blockFault_recorded (s : State) : (Fault.memOutOfBounds (max (effAddr s 0) 4096)).Recorded s.cfg := by
  have hi : s.i.toNat < 0x10000 := s.i.isLt
  exact ⟨Nat.le_max_right _ _, Nat.max_le.mpr ⟨Nat.le_of_lt_succ hi, by decide⟩⟩

/-! ## Instructions and steps -/

/-- Every instruction keeps the invariant, in a state whose pc is the address after a word inside memory. -/
theorem exec_inv (i : Instr) (h : s.Inv) (hlo : 2 ≤ s.pc.toNat) (hhi : s.pc.toNat ≤ 0x1000) :
    Answers State.Inv (exec i s) := by
  cases i with
  | halt => exact answers_next h.halted
  | cls => exact answers_next (h.setFb _)
  | ret =>
    refine exec_ret_answers (fun _ => h.faulted trivial) fun l v hs => ?_
    obtain ⟨hl, hv⟩ := h.pop hs
    exact hl.setPc (Nat.le_trans hv (by decide))
  | jp nnn => exact answers_next (h.setPc (addrOf_le nnn))
  | call nnn =>
    refine exec_call_answers (fun hf => h.faulted ?_) fun hf => ?_
    · obtain ⟨n, hn, -⟩ := (stackFull_iff s).mp hf
      exact fun hd => nomatch hn.symm.trans hd
    · exact (h.push hf ⟨hlo, hhi⟩).setPc (addrOf_le nnn)
  | seImm | sneImm | seReg | sneReg => exact answers_next (h.skipIf _ hhi)
  | ldImm | addImm | ldReg | or | and | xor | ldVxDT => exact answers_next (h.setReg _ _)
  | addReg | sub | shr | subn | shl => exact answers_next ((h.setReg _ _).setReg _ _)
  | ldI | addI | ldF => exact answers_next (h.setI _)
  | jpV0 nnn => exact answers_next (h.setPc (jumpV0_le nnn _))
  | rnd => exact answers_next ((h.setReg _ _).setDraws _)
  | drw =>
    exact exec_drw_answers (fun _ _ => h.faulted (blockFault_recorded s)) fun _ _ _ =>
      ((h.setReg _ _).setFb _).setReg _ _
  | skp => exact exec_skp_answers (fun hk => h.faulted hk) fun _ => h.skipIf _ hhi
  | sknp => exact exec_sknp_answers (fun hk => h.faulted hk) fun _ => h.skipIf _ hhi
  | ldVxK => exact exec_ldVxK_answers (fun _ => h.setPc (by bv_omega)) fun _ _ => h.setReg _ _
  | ldDTVx => exact answers_next (h.setDt _)
  | ldSTVx => exact answers_next (h.setSt _)
  | ldB =>
    exact exec_ldB_answers (fun _ => h.faulted (blockFault_recorded s)) fun _ =>
      h.setMem (Memory.wf_writeBytes _ _ h.memory)
  | ldMemStore =>
    exact exec_ldMemStore_answers (fun _ => h.faulted (blockFault_recorded s)) fun _ => (h.storeRegs _).setI _
  | ldMemLoad =>
    exact exec_ldMemLoad_answers (fun _ => h.faulted (blockFault_recorded s)) fun _ => (h.loadRegs _).setI _

theorem fetched_pc_toNat (hp : s.pc.toNat + 1 < 4096) : (fetched s).pc.toNat = s.pc.toNat + 2 := by
  rw [fetched_pc]
  bv_omega

theorem State.Inv.fetched (h : s.Inv) (hp : s.pc.toNat + 1 < 4096) : (fetched s).Inv :=
  (h.setTrace (pushTrace_length _ _ h.trace)).setPc ((fetched_pc_toNat hp).le.trans (by omega))

/-- Settles O54, by the cases of a step: the two raises of the step record their faults, and the instruction that
executes does so in the fetched state, whose pc is 2..0x1000. -/
theorem stepKeepsInvariant : Obligations.StepKeepsInvariant := by
  intro s t h hstep
  cases hstep ▸ stepCase s with
  | halted => exact h
  | pcOutOfBounds _ hp => exact h.faulted (Nat.le_of_succ_le_succ hp)
  | undefined _ hp hd => exact (h.fetched hp).faulted ⟨by omega, _, hd⟩
  | executed _ hp _ hexec =>
    have hpc := fetched_pc_toNat hp
    exact (exec_inv _ (h.fetched hp) (by omega) (by omega)).of_next hexec

end Sys2Proof.Machine
end

section
/-! What no instruction reads (spec R35, R98): the trace, and the number of the next random draw, which CXNN alone
reads. A machine that differs in them answers the same but for them. -/

namespace Sys2Proof.Machine

/-- The trace and the number of the next draw replaced by any function of themselves. -/
def State.mapUnread (g : List Word → List Word) (h : Nat → Nat) (s : State) : State :=
  { s with trace := g s.trace, draws := h s.draws }

theorem State.setTrace_eq_mapUnread (s : State) (l : List Word) : s.setTrace l = s.mapUnread (fun _ => l) id := rfl

variable (g : List Word → List Word) (h : Nat → Nat) (s : State)

theorem skipIf_mapUnread (c : Bool) : skipIf c (s.mapUnread g h) = (skipIf c s).mapUnread g h := by
  cases c <;> rfl

theorem storeRegs_mapUnread (n : Nat) : storeRegs n (s.mapUnread g h) = (storeRegs n s).mapUnread g h := by
  induction n with
  | zero => rfl
  | succ n ih => rw [storeRegs_succ, storeRegs_succ, ih]; rfl

theorem loadRegs_mapUnread (n : Nat) : loadRegs n (s.mapUnread g h) = (loadRegs n s).mapUnread g h := by
  induction n with
  | zero => rfl
  | succ n ih => rw [loadRegs_succ, loadRegs_succ, ih]; rfl

/-- An instruction other than CXNN reads neither. -/
theorem exec_mapUnread {i : Instr} (hi : ∀ x nn, i ≠ .rnd x nn) :
    Answers (fun t => exec i (s.mapUnread g h) = .next (t.mapUnread g h)) (exec i s) := by
  cases i with
  | rnd x nn => exact absurd rfl (hi x nn)
  | ret => exact exec_ret_answers (fun hs => exec_ret_fault hs) fun _ _ hs => exec_ret_ok hs
  | call nnn => exact exec_call_answers (fun hf => exec_call_fault nnn hf) fun hf => exec_call_ok nnn hf
  | seImm | sneImm | seReg | sneReg => exact answers_next (congrArg _ (skipIf_mapUnread g h s _))
  | drw x y n =>
    refine exec_drw_answers (exec_drw_fault x y n (s.mapUnread g h)) fun hb d hd => ?_
    obtain ⟨d', hd', he⟩ := exec_drw_ok x y n (s.mapUnread g h) hb
    obtain rfl : d' = d := hd'.trans hd.symm
    exact he
  | skp x =>
    exact exec_skp_answers (fun hk => exec_skp_fault hk) fun hk =>
      (exec_skp_ok (s := s.mapUnread g h) hk).trans (congrArg _ (skipIf_mapUnread g h s _))
  | sknp x =>
    exact exec_sknp_answers (fun hk => exec_sknp_fault hk) fun hk =>
      (exec_sknp_ok (s := s.mapUnread g h) hk).trans (congrArg _ (skipIf_mapUnread g h s _))
  | ldVxK x => exact exec_ldVxK_answers (fun hk => exec_ldVxK_wait x hk) fun _ hk => exec_ldVxK_key x hk
  | ldB x => exact exec_ldB_answers (exec_ldB_fault x (s.mapUnread g h)) (exec_ldB_ok x (s.mapUnread g h))
  | ldMemStore x =>
    refine exec_ldMemStore_answers (exec_ldMemStore_fault x (s.mapUnread g h)) fun hb => ?_
    rw [exec_ldMemStore_ok x (s.mapUnread g h) hb, storeRegs_mapUnread]; rfl
  | ldMemLoad x =>
    refine exec_ldMemLoad_answers (exec_ldMemLoad_fault x (s.mapUnread g h)) fun hb => ?_
    rw [exec_ldMemLoad_ok x (s.mapUnread g h) hb, loadRegs_mapUnread]; rfl
  | _ => exact answers_next rfl

/-- R35: no instruction reads the trace. -/
theorem exec_setTrace (i : Instr) (l : List Word) :
    Answers (fun t => exec i (s.setTrace l) = .next (t.setTrace l)) (exec i s) := by
  simp only [State.setTrace_eq_mapUnread]
  cases i with
  | rnd => exact answers_next rfl
  | _ => exact exec_mapUnread (fun _ => l) id s nofun

/-- Settles O59, by the cases of a step: each tests nothing of the trace, and the fetch appends to it. -/
theorem traceHasNoEffect : Obligations.TraceHasNoEffect := by
  refine fun s l => ⟨fun t h => ?_, fun e h => ?_⟩
  · cases h ▸ stepCase s with
    | halted hr => exact ⟨l, step_halted hr⟩
    | pcOutOfBounds hr hp => exact ⟨l, step_pcOutOfBounds hr hp⟩
    | undefined hr hp hd => exact ⟨_, step_undefined hr hp hd⟩
    | executed hr hp hd hexec =>
      exact ⟨_, (step_decoded (s := s.setTrace l) hr hp hd).trans ((exec_setTrace (fetched s) _ _).of_next hexec)⟩
  · cases h ▸ stepCase s with
    | faulted hr => exact step_faulted hr

end Sys2Proof.Machine
end

section
/-! Construction and the keypad write (spec R34, R37, R137, R142). -/

namespace Sys2Proof.Machine

/-- Settles O47: the keypad is the one given, and a write of it frames everything else. -/
theorem keypadWriteSetsKeys : Obligations.KeypadWriteSetsKeys :=
  fun keys _ => ⟨fun _ => rfl, frame_setKeys keys fun k => ⟨k, rfl⟩⟩

theorem resetWith_reg (c : Config) (r : Reg) : (State.resetWith c).reg r = 0 := Vector.getElem_replicate _

theorem resetWith_keyDown (c : Config) (k : BitVec 4) : (State.resetWith c).keyDown k = false :=
  Vector.getElem_replicate _

/-- Settles O50: nothing is listed in memory, so its three ranges read as their content at reset, and every other
piece has its value of R37's table. -/
theorem resetValues : Obligations.ResetValues := fun c =>
  ⟨fun _ h => resetByte_low c.font h, fun _ h => resetByte_font c.font h, fun _ h _ => resetByte_high c.font h,
    resetWith_reg c, rfl, rfl, rfl, rfl, rfl, pixel_clear, rfl, rfl, resetWith_keyDown c, rfl⟩

end Sys2Proof.Machine
end

section
/-! What FX55 leaves in memory, read at the address of each register it stores, and the fetch from there (spec R54,
R105, R152). -/

namespace Sys2Proof.Machine

theorem regNumber_toNat (r : Reg) : regNumber r.toNat = r :=
  (BitVec.ofNat_toNat 4 r).trans (BitVec.setWidth_eq r)

@[simp] theorem storeRegs_pc (n : Nat) (s : State) : (storeRegs n s).pc = s.pc := by
  obtain ⟨m, hm⟩ := storeRegs_eq_setMem n s
  rw [hm, State.setMem_pc]

/-- R105: in bounds, the byte at the effective address of a register among V0..V(n-1) is that register. -/
theorem storeRegs_byte_effAddr {n : Nat} {s : State} {r : Reg} (hn : s.i.toNat + n ≤ 4096) (hr : r.toNat < n) :
    (storeRegs n s).byte (effAddr s r.toNat) = s.reg r := by
  have hin : s.i.toNat ≤ effAddr s r.toNat ∧ effAddr s r.toNat < s.i.toNat + n :=
    ⟨Nat.le_add_right _ _, Nat.add_lt_add_left hr _⟩
  rw [storeRegs_byte n s _ hn, if_pos hin, effAddr, Nat.add_sub_cancel_left, regNumber_toNat]

/-- Settles O38: the fetch reads the bytes at the addresses of V[k] and V[k+1], which are two neighbours in the stored
block; FX55 leaves the pc alone, and its advance of I changes no byte. -/
theorem storedCodeIsFetched : Obligations.StoredCodeIsFetched := by
  intro x k s hx hk hpc
  refine ⟨_, exec_ldMemStore_ok x s hx, ?_⟩
  have hn : s.i.toNat + (x.toNat + 1) ≤ 4096 := hx
  have hk1 : (k + 1).toNat = k.toNat + 1 := by bv_omega
  have hnext : s.pc.toNat + 1 = effAddr s (k + 1).toNat := by rw [hpc, hk1]; rfl
  have hhigh := storeRegs_byte_effAddr (r := k) hn (by omega)
  have hlow := storeRegs_byte_effAddr (r := k + 1) hn (by omega)
  rw [fetchWord, State.setI_pc, storeRegs_pc, hnext, hpc, State.setI_byte, State.setI_byte, hhigh, hlow]
  rfl

end Sys2Proof.Machine
end

section
/-! The encoder and the decoder are inverse to each other (spec R57, R64 to R74): decoding the word of an instruction
gives it back, and a word that decodes is the word of its instruction. The groups' selectors follow. -/

namespace Sys2Proof

/-! ## Decoding an encoded word -/

/-- R57, R65: the decoder reads the fields of an encoded word as the encoder wrote them. -/
theorem decode_encode (i : Instr) : decode (encode i) = .ok i := by
  cases i with
  | halt | cls | ret => rfl
  | jp | call | ldI | jpV0 => simp [encode, decode]
  | seImm | sneImm | ldImm | addImm | rnd => simp [encode, decode]
  | seReg | sneReg | drw => simp [encode, decode]
  | ldReg | or | and | xor | addReg | sub | shr | subn | shl => simp [encode, decode, decodeAlu]
  | skp | sknp => simp [encode, decode, decodeKeys]
  | ldVxDT | ldVxK | ldDTVx | ldSTVx | addI | ldF | ldB | ldMemStore | ldMemLoad =>
    simp [encode, decode, decodeMisc]

/-- Settles O1: the operand types carry the ranges of R58, so every instruction decodes from its word. -/
theorem decodeOfEncode : Obligations.DecodeOfEncode := fun i _ => decode_encode i

/-! ## Encoding a decoded word -/

variable {w : Word} {i : Instr}

theorem formatNNN_of_fields {op : BitVec 4} (hop : fieldOp w = op) : formatNNN op (fieldNNN w) = w :=
  hop ▸ formatNNN_fields w

theorem formatXNN_of_fields {op : BitVec 4} {nn : Byte} (hop : fieldOp w = op) (hnn : fieldNN w = nn) :
    formatXNN op (fieldX w) nn = w :=
  hop ▸ hnn ▸ formatXNN_fields w

theorem formatXYN_of_fields {op : BitVec 4} {n : Nibble} (hop : fieldOp w = op) (hn : fieldN w = n) :
    formatXYN op (fieldX w) (fieldY w) n = w :=
  hop ▸ hn ▸ formatXYN_fields w

theorem encode_of_decodeSystem (h : decodeSystem w = .ok i) : encode i = w := by
  unfold decodeSystem at h
  split at h
  case h_4 => cases h
  all_goals
    obtain rfl := Except.ok.inj h
    rfl

theorem encode_of_decodeAlu (hop : fieldOp w = 0x8#4) (h : decodeAlu w = .ok i) : encode i = w := by
  unfold decodeAlu at h
  split at h
  case h_10 => cases h
  all_goals
    obtain rfl := Except.ok.inj h
    exact formatXYN_of_fields hop ‹_›

theorem encode_of_decodeKeys (hop : fieldOp w = 0xE#4) (h : decodeKeys w = .ok i) : encode i = w := by
  unfold decodeKeys at h
  split at h
  case h_3 => cases h
  all_goals
    obtain rfl := Except.ok.inj h
    exact formatXNN_of_fields hop ‹_›

theorem encode_of_decodeMisc (hop : fieldOp w = 0xF#4) (h : decodeMisc w = .ok i) : encode i = w := by
  unfold decodeMisc at h
  split at h
  case h_10 => cases h
  all_goals
    obtain rfl := Except.ok.inj h
    exact formatXNN_of_fields hop ‹_›

/-- R64, R65: each branch of the opcode map fixes the fields that the pattern of its instruction fixes. Branch `h_k`
is group k - 1; the last is group F, the one top nibble the others leave. -/
theorem encode_of_decode (h : decode w = .ok i) : encode i = w := by
  unfold decode at h
  split at h
  case h_1 => exact encode_of_decodeSystem h
  case h_9 hop => exact encode_of_decodeAlu hop h
  case h_15 hop => exact encode_of_decodeKeys hop h
  case h_16 =>
    have hop : fieldOp w = 0xF#4 := by
      simp only [imp_false] at *
      bv_omega
    exact encode_of_decodeMisc hop h
  case h_6 hop | h_10 hop =>
    split at h
    case isFalse => cases h
    case isTrue hn =>
      obtain rfl := Except.ok.inj h
      exact formatXYN_of_fields hop hn
  case h_2 hop | h_3 hop | h_11 hop | h_12 hop =>
    obtain rfl := Except.ok.inj h
    exact formatNNN_of_fields hop
  case h_14 hop =>
    obtain rfl := Except.ok.inj h
    exact formatXYN_of_fields hop rfl
  all_goals
    obtain rfl := Except.ok.inj h
    exact formatXNN_of_fields ‹_› rfl

/-- Settles O2, branch by branch of the opcode map. -/
theorem encodeOfDecode : Obligations.EncodeOfDecode := fun _ _ => encode_of_decode

/-! ## The groups by their selectors -/

/-- Every word up to 0x0FFF is in group 0 (R66). -/
theorem fieldOp_of_toNat_le (h : w.toNat ≤ 0x0FFF) : fieldOp w = 0x0#4 := by
  apply BitVec.eq_of_toNat_eq
  rw [fieldOp, BitVec.extractLsb'_toNat, Nat.shiftRight_eq_div_pow, Nat.div_eq_of_lt (by omega)]
  rfl

theorem decode_system (h : fieldOp w = 0x0#4) : decode w = decodeSystem w := by
  simp [decode, h]

theorem decodeSystem_undefined (hhalt : w ≠ 0x0000) (hcls : w ≠ 0x00E0) (hret : w ≠ 0x00EE) :
    decodeSystem w = .error .system := by
  unfold decodeSystem
  split
  case h_4 => rfl
  all_goals contradiction

/-- Settles O4: the words of group 0 past the three are the words below 0x1000 that `decodeSystem` does not list. -/
theorem systemGroupSelectsOnWholeWord : Obligations.SystemGroupSelectsOnWholeWord := by
  refine ⟨decode_encode .halt, decode_encode .cls, decode_encode .ret, fun w hlo hhi hcls hret => ⟨.system, ?_⟩⟩
  have hhalt : w ≠ 0x0000 := by rintro rfl; exact absurd hlo (by decide)
  rw [decode_system (fieldOp_of_toNat_le hhi), decodeSystem_undefined hhalt hcls hret]

/-- Settles O5: with N = 0 the two words are those of the encoder, and the decoder checks N in both groups. -/
theorem registerSkipsNeedZeroN : Obligations.RegisterSkipsNeedZeroN := by
  intro x y n
  refine ⟨?_, fun hn => ⟨⟨.seReg, ?_⟩, .sneReg, ?_⟩⟩
  · rintro rfl
    exact ⟨decode_encode (.seReg x y), decode_encode (.sneReg x y)⟩
  · show decode (formatXYN 0x5#4 x y n) = _
    simpa [decode] using hn
  · show decode (formatXYN 0x9#4 x y n) = _
    simpa [decode] using hn

theorem decode_alu_undefined (x y : Reg) {n : Nibble} (hn : n ∈ [0x8#4, 0x9#4, 0xA#4, 0xB#4, 0xC#4, 0xD#4, 0xF#4]) :
    decode (formatXYN 0x8#4 x y n) = .error .alu := by
  simp only [List.mem_cons, List.not_mem_nil, or_false] at hn
  rcases hn with rfl | rfl | rfl | rfl | rfl | rfl | rfl <;> simp [decode, decodeAlu]

theorem decode_keys_undefined (x : Reg) {nn : Byte} (hnn : nn ∉ [0x9E#8, 0xA1#8]) :
    decode (formatXNN 0xE#4 x nn) = .error .keys := by
  have h : decode (formatXNN 0xE#4 x nn) = decodeKeys (formatXNN 0xE#4 x nn) := by simp [decode]
  rw [h, decodeKeys, fieldNN_formatXNN]
  split
  case h_3 => rfl
  all_goals exact absurd (by decide) hnn

theorem decode_misc_undefined (x : Reg) {nn : Byte}
    (hnn : nn ∉ [0x07#8, 0x0A#8, 0x15#8, 0x18#8, 0x1E#8, 0x29#8, 0x33#8, 0x55#8, 0x65#8]) :
    decode (formatXNN 0xF#4 x nn) = .error .misc := by
  have h : decode (formatXNN 0xF#4 x nn) = decodeMisc (formatXNN 0xF#4 x nn) := by simp [decode]
  rw [h, decodeMisc, fieldNN_formatXNN]
  split
  case h_10 => rfl
  all_goals exact absurd (by decide) hnn

/-- Settles O6: the nine words are those of the encoder. -/
theorem aluGroupSelectsOnN : Obligations.AluGroupSelectsOnN := fun x y =>
  ⟨decode_encode (.ldReg x y), decode_encode (.or x y), decode_encode (.and x y), decode_encode (.xor x y),
    decode_encode (.addReg x y), decode_encode (.sub x y), decode_encode (.shr x y), decode_encode (.subn x y),
    decode_encode (.shl x y), fun _ hn => ⟨.alu, decode_alu_undefined x y hn⟩⟩

/-- Settles O7: the eleven words are those of the encoder. -/
theorem keyAndMiscGroupsSelectOnNN : Obligations.KeyAndMiscGroupsSelectOnNN := fun x =>
  ⟨decode_encode (.skp x), decode_encode (.sknp x), decode_encode (.ldVxDT x), decode_encode (.ldVxK x),
    decode_encode (.ldDTVx x), decode_encode (.ldSTVx x), decode_encode (.addI x), decode_encode (.ldF x),
    decode_encode (.ldB x), decode_encode (.ldMemStore x), decode_encode (.ldMemLoad x),
    fun _ hnn => ⟨.keys, decode_keys_undefined x hnn⟩, fun _ hnn => ⟨.misc, decode_misc_undefined x hnn⟩⟩

end Sys2Proof
end

section
/-! The rows of the opcode table (30_encoding.md, opening; spec R64, R65): the row of an instruction selects its word,
two rows of the table never select one word, and a word that a row selects decodes. -/

namespace Sys2Proof.Laws.Encoding

/-- R57, R58, R65: every instruction is well formed, and its row selects its word. -/
theorem statement : ∀ i : Instr, Statement i
  | .halt => halt | .cls => cls | .ret => ret
  | .jp a => jp a | .call a => call a | .ldI a => ldI a | .jpV0 a => jpV0 a
  | .seImm x k => seImm x k | .sneImm x k => sneImm x k
  | .ldImm x k => ldImm x k | .addImm x k => addImm x k | .rnd x k => rnd x k
  | .seReg x y => seReg x y | .sneReg x y => sneReg x y | .drw x y n => drw x y n
  | .ldReg x y => ldReg x y | .or x y => or x y | .and x y => and x y | .xor x y => xor x y
  | .addReg x y => addReg x y | .sub x y => sub x y | .shr x y => shr x y | .subn x y => subn x y | .shl x y => shl x y
  | .skp x => skp x | .sknp x => sknp x
  | .ldVxDT x => ldVxDT x | .ldVxK x => ldVxK x | .ldDTVx x => ldDTVx x | .ldSTVx x => ldSTVx x
  | .addI x => addI x | .ldF x => ldF x | .ldB x => ldB x | .ldMemStore x => ldMemStore x | .ldMemLoad x => ldMemLoad x

end Sys2Proof.Laws.Encoding

namespace Sys2Proof

theorem row_selects_encode (i : Instr) : i.row.selects (encode i) = true := (Laws.Encoding.statement i).2

theorem row_selects_of_decode {w : Word} {i : Instr} (h : decode w = .ok i) : i.row.selects w = true :=
  encode_of_decode h ▸ row_selects_encode i

/-! ## The table -/

/-- The row of an instruction does not depend on its operands, so it is that of one of the 35 the table is made of. -/
theorem row_mem_opcodeTable (i : Instr) : i.row ∈ opcodeTable := by
  cases i <;> exact List.elem_iff.mp rfl

theorem exists_row_of_mem_opcodeTable {r : OpcodeRow} (h : r ∈ opcodeTable) : ∃ j : Instr, j.row = r := by
  obtain ⟨j, -, hj⟩ := List.mem_map.mp h
  exact ⟨j, hj⟩

/-- Every row fixes the top nibble. -/
theorem fieldOp_row_mask : ∀ r ∈ opcodeTable, fieldOp r.mask = 0xF#4 := by
  decide

/-- Two rows of the table that agree on the bits both fix are one row. -/
theorem eq_of_mem_opcodeTable : ∀ r ∈ opcodeTable, ∀ r' ∈ opcodeTable,
    r.pattern &&& r'.mask = r'.pattern &&& r.mask → r = r' := by
  decide

namespace OpcodeRow

/-- Two rows that select one word agree on the bits both fix. -/
theorem pattern_and_mask_eq {r r' : OpcodeRow} {w : Word} (h : r.selects w = true) (h' : r'.selects w = true) :
    r.pattern &&& r'.mask = r'.pattern &&& r.mask := by
  have hw : w &&& r.mask = r.pattern := beq_iff_eq.mp h
  have hw' : w &&& r'.mask = r'.pattern := beq_iff_eq.mp h'
  rw [← hw, ← hw', BitVec.and_assoc, BitVec.and_comm r.mask, ← BitVec.and_assoc]

/-! ## Two words that one row selects -/

section
variable {r : OpcodeRow} {w w' : Word} (h : r.selects w = true) (h' : r.selects w' = true)
include h h'

theorem and_mask_eq : w &&& r.mask = w' &&& r.mask := (beq_iff_eq.mp h).trans (beq_iff_eq.mp h').symm

theorem word_eq (hm : r.mask = 0xFFFF#16) : w = w' := by
  have e := and_mask_eq h h'
  rw [hm] at e
  exact BitVec.and_allOnes.symm.trans (e.trans BitVec.and_allOnes)

theorem extract_eq {k n : Nat} (hm : r.mask.extractLsb' k n = BitVec.allOnes n) :
    w.extractLsb' k n = w'.extractLsb' k n := by
  have e := congrArg (BitVec.extractLsb' k n) (and_mask_eq h h')
  rwa [BitVec.extractLsb'_and, BitVec.extractLsb'_and, hm, BitVec.and_allOnes, BitVec.and_allOnes] at e

theorem fieldOp_eq (hm : fieldOp r.mask = 0xF#4) : fieldOp w = fieldOp w' := extract_eq h h' hm

theorem fieldN_eq (hm : r.mask = 0xF00F#16) : fieldN w = fieldN w' := extract_eq h h' (hm ▸ rfl)

theorem fieldNN_eq (hm : r.mask = 0xF0FF#16) : fieldNN w = fieldNN w' := extract_eq h h' (hm ▸ rfl)

end

end OpcodeRow

/-! ## Selecting and decoding -/

/-- A word that the row of an instruction selects has the selectors of that instruction's own word, so it decodes. -/
theorem exists_decode_of_row_selects {w : Word} (j : Instr) (h : j.row.selects w = true) :
    ∃ i, decode w = .ok i := by
  have hj := row_selects_encode j
  have hop := OpcodeRow.fieldOp_eq h hj (fieldOp_row_mask _ (row_mem_opcodeTable j))
  cases j with
  | halt | cls | ret => exact ⟨_, OpcodeRow.word_eq h hj rfl ▸ decode_encode _⟩
  | jp | call | ldI | jpV0 => simp [decode, hop, encode]
  | seImm | sneImm | ldImm | addImm | rnd => simp [decode, hop, encode]
  | drw => simp [decode, hop, encode]
  | seReg | sneReg =>
    have hn := OpcodeRow.fieldN_eq h hj rfl
    simp [decode, hop, hn, encode]
  | ldReg | or | and | xor | addReg | sub | shr | subn | shl =>
    have hn := OpcodeRow.fieldN_eq h hj rfl
    simp [decode, decodeAlu, hop, hn, encode]
  | skp | sknp =>
    have hnn := OpcodeRow.fieldNN_eq h hj rfl
    simp [decode, decodeKeys, hop, hnn, encode]
  | ldVxDT | ldVxK | ldDTVx | ldSTVx | addI | ldF | ldB | ldMemStore | ldMemLoad =>
    have hnn := OpcodeRow.fieldNN_eq h hj rfl
    simp [decode, decodeMisc, hop, hnn, encode]

theorem selects_iff_eq_row {w : Word} {i : Instr} (hd : decode w = .ok i) {r : OpcodeRow} (hr : r ∈ opcodeTable) :
    r.selects w = true ↔ r = i.row := by
  have hi := row_selects_of_decode hd
  refine ⟨fun hs => eq_of_mem_opcodeTable r hr _ (row_mem_opcodeTable i) (OpcodeRow.pattern_and_mask_eq hs hi), ?_⟩
  rintro rfl
  exact hi

theorem decode_undefined_iff {w : Word} :
    (∃ u, decode w = .error u) ↔ ∀ r ∈ opcodeTable, r.selects w = false := by
  refine ⟨fun ⟨u, hu⟩ r hr => Bool.eq_false_iff.mpr fun hs => ?_, fun hnone => ?_⟩
  · obtain ⟨j, rfl⟩ := exists_row_of_mem_opcodeTable hr
    obtain ⟨i, hi⟩ := exists_decode_of_row_selects j hs
    exact nomatch hu.symm.trans hi
  · cases hd : decode w with
    | error u => exact ⟨u, rfl⟩
    | ok i => exact absurd (row_selects_of_decode hd) (Bool.eq_false_iff.mp (hnone _ (row_mem_opcodeTable i)))

/-- Settles O3: the rows of the table exclude each other, and selecting a row is decoding to an instruction of it. -/
theorem oneOpcodeRowPerWord : Obligations.OneOpcodeRowPerWord := fun _ =>
  ⟨fun i hd => ⟨row_mem_opcodeTable i, fun _ hr => selects_iff_eq_row hd hr⟩, decode_undefined_iff⟩

end Sys2Proof
end

section
/-! The step of a running core (spec R59 to R63, R71, R75, R128): what the fetch does, how each raise of the step is
framed, and the outcome. -/

namespace Sys2Proof.Machine

variable {s : State}

/-! ## The three ways a running core's step can go -/

/-- Settles O9: the fetch changes the trace and the pc alone. -/
theorem stepRunsDecodedInstruction : Obligations.StepRunsDecodedInstruction := fun _ _ hr hp hd _ =>
  ⟨step_decoded hr hp hd, rfl, rfl, frame_fetched (by simp) (by simp)⟩

/-- Settles O11: the step raises before the fetch. -/
theorem pcOutOfBoundsChangesNothingElse : Obligations.PcOutOfBoundsChangesNothingElse := fun s hr hp =>
  ⟨_, step_pcOutOfBounds hr hp, rfl, frameList_run_setRun s _⟩

/-- Settles O12: the step raises in the fetched state. -/
theorem undefinedWordRaises : Obligations.UndefinedWordRaises := fun _ _ hr hp hd =>
  ⟨_, step_undefined hr hp hd, rfl, rfl, rfl, (frame_fetched (by simp) (by simp)).trans (frame_setRun _ (by simp))⟩

/-! ## The trace -/

theorem pushTrace_of_length_lt {l : List Word} (w : Word) (h : l.length < 14) : pushTrace l w = l ++ [w] := by
  have hlen : ¬ 14 < (l ++ [w]).length := by rw [List.length_append, List.length_singleton]; omega
  exact if_neg hlen

theorem pushTrace_of_length_eq {l : List Word} (w : Word) (h : l.length = 14) : pushTrace l w = l.tail ++ [w] := by
  have hlen : 14 < (l ++ [w]).length := by rw [List.length_append, List.length_singleton]; omega
  have hl : l ≠ [] := List.ne_nil_of_length_eq_add_one h
  exact (if_pos hlen).trans (List.tail_append_of_ne_nil hl)

/-- R62: a step that fetches traces the word, whether the word is Undefined or the instruction executes, for no
instruction writes the trace. -/
theorem step_trace (hr : s.run = .running) (hp : s.pc.toNat + 1 < 4096) :
    Answers (fun t => t.trace = pushTrace s.trace (fetchWord s)) (step s) := by
  cases hd : decode (fetchWord s) with
  | error u => exact ⟨_, step_undefined hr hp hd, rfl⟩
  | ok i =>
    obtain ⟨t, ht, hframe⟩ := exec_frame i (fetched s)
    exact ⟨t, (step_decoded hr hp hd).trans ht, hframe .trace id⟩

/-- Settles O10: the bound of the trace drops its oldest word exactly when it held 14. -/
theorem everyFetchIsTraced : Obligations.EveryFetchIsTraced := by
  intro s hr hp _
  obtain ⟨t, ht, htrace⟩ := step_trace hr hp
  exact ⟨t, ht, fun h => htrace.trans (pushTrace_of_length_lt _ h), fun h => htrace.trans (pushTrace_of_length_eq _ h)⟩

/-! ## The outcome -/

theorem outcomeOut_eq_error_iff {e : Fault} : outcomeOut s = .error e ↔ s.run = .faulted e := by
  unfold outcomeOut
  cases s.run <;> simp

theorem outcomeOut_eq_halt_iff : outcomeOut s = .halt ↔ s.run = .halted := by
  unfold outcomeOut
  cases s.run <;> simp

theorem outcomeOut_faulted_iff {e f : Fault} : outcomeOut (s.setRun (.faulted f)) = .error e ↔ e = f := by
  rw [outcomeOut_eq_error_iff, State.setRun_run, RunState.faulted.injEq, eq_comm]

theorem outcomeOut_faulted_ne_halt {f : Fault} : outcomeOut (s.setRun (.faulted f)) ≠ .halt := nofun

/-- R75, R119: an instruction of a running core leaves it faulted exactly with its own fault, and halted exactly if it
is HALT. -/
theorem exec_outcome (i : Instr) (hr : s.run = .running) :
    Answers (fun t => (∀ e, outcomeOut t = .error e ↔ ExecFault i (s.pc - 2) s e) ∧
      (outcomeOut t = .halt ↔ i = .halt)) (exec i s) := by
  obtain ⟨t, ht, -, hfault, hok⟩ := everyInstructionKeepsItsFrame i s
  refine ⟨t, ht, fun e => ?_, ?_⟩
  · rw [outcomeOut_eq_error_iff]
    exact ⟨fun he => ((executeFaultsArePrecise i s e).2 t hr ht he).1, hfault e⟩
  · rw [outcomeOut_eq_halt_iff]
    by_cases hf : ∃ e, ExecFault i (s.pc - 2) s e
    · obtain ⟨e, he⟩ := hf
      have hi : i ≠ .halt := by rintro rfl; exact he
      simp [hfault e he, hi]
    · rw [hok (not_exists.mp hf), hr]
      by_cases hi : i = .halt <;> simp [hi]

theorem stepFault_pcOutOfBounds {e : Fault} (hp : 4096 ≤ s.pc.toNat + 1) :
    StepFault s e ↔ e = .pcOutOfBounds s.pc := by
  rw [StepFault, if_pos hp]

theorem stepFault_undefined {u : Undefined} {e : Fault} (hp : s.pc.toNat + 1 < 4096)
    (hd : decode (fetchWord s) = .error u) : StepFault s e ↔ e = .instructionNotDefined s.pc (fetchWord s) := by
  rw [StepFault, if_neg (Nat.not_le.mpr hp), hd]

/-- R63: the fault of a decoded instruction is the one it raises in the fetched state, whose pc is 2 past its own. -/
theorem stepFault_decoded {i : Instr} {e : Fault} (hp : s.pc.toNat + 1 < 4096) (hd : decode (fetchWord s) = .ok i) :
    StepFault s e ↔ ExecFault i ((fetched s).pc - 2) (fetched s) e := by
  have hpc : (fetched s).pc - 2 = s.pc := insnAddr_fetched s
  rw [StepFault, if_neg (Nat.not_le.mpr hp), hd, hpc]
  rfl

/-- R76: the word of HALT is 0000, and no other. -/
theorem decode_eq_halt_iff {w : Word} : decode w = .ok .halt ↔ w = 0x0000 :=
  ⟨fun h => (encode_of_decode h).symm, fun h => h ▸ decode_encode .halt⟩

/-- Settles O14, by the three ways a running core's step can go. -/
theorem stepOutcomeIsDetermined : Obligations.StepOutcomeIsDetermined := by
  intro s hr
  obtain hp | hp := Nat.lt_or_ge (s.pc.toNat + 1) 4096
  · cases hd : decode (fetchWord s) with
    | error u =>
      refine ⟨_, step_undefined hr hp hd, fun e => outcomeOut_faulted_iff.trans (stepFault_undefined hp hd).symm,
        iff_of_false outcomeOut_faulted_ne_halt fun ⟨_, hw⟩ => ?_⟩
      exact nomatch hd.symm.trans (decode_eq_halt_iff.mpr hw)
    | ok i =>
      obtain ⟨t, ht, herr, hhalt⟩ := exec_outcome i (s := fetched s) hr
      refine ⟨t, (step_decoded hr hp hd).trans ht, fun e => (herr e).trans (stepFault_decoded hp hd).symm, ?_⟩
      rw [hhalt, ← decode_eq_halt_iff, hd, Except.ok.injEq, and_iff_right hp]
  · exact ⟨_, step_pcOutOfBounds hr hp, fun e => outcomeOut_faulted_iff.trans (stepFault_pcOutOfBounds hp).symm,
      iff_of_false outcomeOut_faulted_ne_halt fun ⟨hlt, _⟩ => Nat.not_lt.mpr hp hlt⟩

end Sys2Proof.Machine
end

section
/-! Control flow (spec R76 to R84): HALT, RET, JP, CALL, the skips on registers, and JP V0. Each writes the pc, the
stack or the run state, and frames everything else. -/

namespace Sys2Proof.Machine

/-- Settles O8: each word is the one the encoder builds from the operands of its instruction. -/
theorem writtenOutWordsDecode : Obligations.WrittenOutWordsDecode :=
  ⟨decode_encode (.jp 0x234), decode_encode (.sneImm 0x3 0x10), decode_encode (.shr 0x1 0x2),
    decode_encode (.ldB 0x5), decode_encode (.drw 0x1 0x2 0x5), decode_encode (.skp 0x4)⟩

variable {s : State}

/-- Settles O15: HALT replaces the run state, which frames every other piece. -/
theorem haltEndsTheRun : Obligations.HaltEndsTheRun :=
  ⟨decode_encode .halt, fun s => ⟨_, exec_halt s, rfl, frameList_run_setRun s .halted⟩⟩

/-! ## Calls and returns -/

/-- R29: a stack of unbounded depth is never full; one of depth n is not while it holds fewer than n entries. -/
theorem stackFull_eq_false_iff :
    stackFull s = false ↔ ∀ n, s.cfg.stackDepth = some n → s.stack.length < n := by
  rw [← Bool.not_eq_true, stackFull_iff]
  simp only [not_exists, not_and, Nat.not_le]

theorem frameList_setStack_setPc (l : List Word) (a : Word) :
    FrameList [.pc, .stack] s ((s.setStack l).setPc a) :=
  (frame_setStack l (by simp)).trans (frame_setPc a (by simp))

/-- Settles O16, by the two ways a pop can go. -/
theorem retPopsTheReturnAddress : Obligations.RetPopsTheReturnAddress :=
  ⟨decode_encode .ret, fun _ l a h => ⟨_, exec_ret_ok h, rfl, rfl, frameList_setStack_setPc l a⟩,
    fun s h => ⟨_, exec_ret_fault h, rfl, frameList_run_setRun s _⟩⟩

/-- Settles O18, by the two ways a push can go. -/
theorem callPushesTheNextAddress : Obligations.CallPushesTheNextAddress := by
  refine fun nnn s => ⟨decode_encode (.call nnn), fun hroom => ?_, fun n hn hlen => ?_⟩
  · exact ⟨_, exec_call_ok nnn (stackFull_eq_false_iff.mpr hroom), addrOf_toNat nnn, rfl, frameList_setStack_setPc _ _⟩
  · exact ⟨_, exec_call_fault nnn ((stackFull_iff s).mpr ⟨n, hn, hlen⟩), rfl, frameList_run_setRun s _⟩

/-- Settles O19: the fetch of the RET leaves the stack alone, so the RET pops the entry that the CALL pushed. -/
theorem retUndoesCall : Obligations.RetUndoesCall := by
  intro nnn s hroom
  have hcall := exec_call_ok nnn (stackFull_eq_false_iff.mpr hroom)
  have hstack : (fetched ((s.setStack (s.stack ++ [s.pc])).setPc (addrOf nnn))).stack = s.stack ++ [s.pc] := rfl
  exact ⟨_, _, hcall, exec_ret_ok hstack, rfl, rfl⟩

/-! ## Jumps -/

theorem frameList_setPc (a : Word) : FrameList [.pc] s (s.setPc a) :=
  frame_setPc a (List.mem_singleton.mpr rfl)

/-- Settles O17: widened to 16 bits, the address keeps its value. -/
theorem jumpTakesNNN : Obligations.JumpTakesNNN := fun nnn _ =>
  ⟨decode_encode (.jp nnn), answers_next ⟨addrOf_toNat nnn, frameList_setPc _⟩⟩

/-- R84: a 12-bit address and a byte add up to less than 2^16, so the sum does not wrap. -/
theorem addrOf_add_wordOfByte_toNat (nnn : Addr) (b : Byte) :
    (addrOf nnn + wordOfByte b).toNat = nnn.toNat + b.toNat := by
  have hn : nnn.toNat < 0x1000 := nnn.isLt
  have hb : b.toNat < 0x100 := b.isLt
  rw [BitVec.toNat_add, addrOf_toNat, wordOfByte_toNat]
  omega

/-- Settles O22: the jump writes the sum, which does not wrap. -/
theorem jumpOffsetIsNotMasked : Obligations.JumpOffsetIsNotMasked := fun nnn _ =>
  ⟨decode_encode (.jpV0 nnn), answers_next ⟨addrOf_add_wordOfByte_toNat nnn _, frameList_setPc _⟩⟩

/-! ## Skips -/

/-- What every skip answers, its Boolean test standing for the condition `P`. -/
theorem skipIf_answers {c : Bool} {P : Prop} [Decidable P] (h : c = true ↔ P) :
    Answers (fun t => t.pc = (if P then s.pc + 2 else s.pc) ∧ FrameList [.pc] s t) (.next (skipIf c s)) :=
  answers_next ⟨(skipIf_pc c s).trans (if_congr h rfl rfl), frame_skipIf c (List.mem_singleton.mpr rfl)⟩

/-- Settles O20: the two tests of a register against NN are Boolean (in)equality. -/
theorem immediateSkips : Obligations.ImmediateSkips := fun x nn _ =>
  ⟨decode_encode (.seImm x nn), decode_encode (.sneImm x nn), skipIf_answers beq_iff_eq, skipIf_answers bne_iff_ne⟩

/-- Settles O21: the two tests of a register against another are Boolean (in)equality. -/
theorem registerSkips : Obligations.RegisterSkips := fun _ _ _ =>
  ⟨skipIf_answers beq_iff_eq, skipIf_answers bne_iff_ne⟩

end Sys2Proof.Machine
end

section
/-! The random draw (spec R98): a step on any word but CXNN neither moves the number of the next draw nor reads it. -/

namespace Sys2Proof.Machine

variable {s t : State}

theorem State.setDraws_eq_mapUnread (s : State) (d : Nat) : s.setDraws d = s.mapUnread id fun _ => d := rfl

/-- R98: of the instructions only CXNN reads the number of the next draw. -/
theorem exec_setDraws {i : Instr} (hi : ∀ x nn, i ≠ .rnd x nn) (d : Nat) (h : exec i s = .next t) :
    exec i (s.setDraws d) = .next (t.setDraws d) :=
  (exec_mapUnread id (fun _ => d) s hi).of_next h

/-- R98: a step that moves the number of the next draw decoded a CXNN. -/
theorem step_draws (hw : ∀ x nn, decode (fetchWord s) ≠ .ok (.rnd x nn)) (h : step s = .next t) :
    t.draws = s.draws := by
  refine step_frame h .draws fun ⟨i, hd, x, nn, hi⟩ => hw x nn ?_
  rw [hd, hi]

/-- R98: a step that does not decode a CXNN is the same whatever draw comes next: nothing before the execute phase tests
the number of the draw, and the instruction is none that reads it. -/
theorem step_setDraws (hw : ∀ x nn, decode (fetchWord s) ≠ .ok (.rnd x nn)) (d : Nat) (h : step s = .next t) :
    step (s.setDraws d) = .next (t.setDraws d) := by
  cases h ▸ stepCase s with
  | halted hr => exact step_halted hr
  | pcOutOfBounds hr hp => exact step_pcOutOfBounds hr hp
  | undefined hr hp hd => exact step_undefined hr hp hd
  | executed hr hp hd hexec =>
    have hi : ∀ x nn, _ ≠ Instr.rnd x nn := fun x nn he => hw x nn (hd.trans (congrArg _ he))
    exact (step_decoded (s := s.setDraws d) hr hp hd).trans (exec_setDraws hi d hexec)

/-- Settles O60: the draw's number is framed, and no phase of the step reads it. -/
theorem onlyRandomReadsTheDraw : Obligations.OnlyRandomReadsTheDraw := fun _ _ d hw h =>
  ⟨step_draws hw h, step_setDraws hw d h⟩

end Sys2Proof.Machine
end

section
/-! Registers and ALU (spec R86 to R100): the instructions that write VX alone, those that write a flag to VF after it,
and CXNN. -/

namespace Sys2Proof.Machine

variable {x : Reg} {s : State}

/-! ## VX alone -/

theorem frameList_setReg (b : Byte) : FrameList [.reg x] s (s.setReg x b) :=
  frame_setReg b (List.mem_singleton.mpr rfl)

/-- What every instruction that writes `b` to VX and nothing else answers. -/
theorem setReg_answers (b : Byte) : Answers (fun t => t.reg x = b ∧ FrameList [.reg x] s t) (.next (s.setReg x b)) :=
  answers_next ⟨State.setReg_reg_same s x b, frameList_setReg b⟩

/-- What a bitwise instruction answers whose result `b` has the bits `bit`. -/
theorem setReg_answers_bits {b : Byte} {bit : Nat → Bool} (hb : ∀ k, b.getLsbD k = bit k) :
    Answers (fun t => FrameList [.reg x] s t ∧ ∀ k, (t.reg x).getLsbD k = bit k) (.next (s.setReg x b)) :=
  answers_next ⟨frameList_setReg b, fun k => by rw [State.setReg_reg_same, hb]⟩

/-- Settles O23: the register written is VX. -/
theorem loadImmediate : Obligations.LoadImmediate := fun x nn _ =>
  ⟨decode_encode (.ldImm x nn), setReg_answers nn⟩

/-- Settles O24: the sum of two bytes is their exact sum modulo 256, and the register written is VX. -/
theorem addImmediateWrapsWithoutFlag : Obligations.AddImmediateWrapsWithoutFlag := by
  refine fun x nn s => ⟨decode_encode (.addImm x nn), answers_next ⟨?_, frameList_setReg _⟩⟩
  rw [State.setReg_reg_same, BitVec.toNat_add]

/-- Settles O25: the register written is VX. -/
theorem loadRegister : Obligations.LoadRegister := fun x y s =>
  ⟨decode_encode (.ldReg x y), setReg_answers (s.reg y)⟩

/-- Settles O26, by the bits of the three operations. -/
theorem bitwiseOperations : Obligations.BitwiseOperations := fun x y _ =>
  ⟨decode_encode (.or x y), decode_encode (.and x y), decode_encode (.xor x y),
    setReg_answers_bits fun _ => BitVec.getLsbD_or, setReg_answers_bits fun _ => BitVec.getLsbD_and,
    setReg_answers_bits fun _ => BitVec.getLsbD_xor⟩

/-! ## VX, then the flag in VF -/

/-- R100, D9: what every instruction answers that writes a result to VX and then a flag to VF: VF holds the flag
whatever X is, and VX the result if X is not F. `val` is how the result is read as a number. -/
theorem writeWithFlag_answers {α : Type} (val : Byte → α) {result flag : Byte} {v : α} {n : Nat}
    (hv : val result = v) (hn : flag.toNat = n) :
    Answers (fun t => (x ≠ flagReg → val (t.reg x) = v) ∧ (t.reg flagReg).toNat = n ∧
      FrameList [.reg x, .reg flagReg] s t) (.next (writeWithFlag x result flag s)) := by
  refine answers_next ⟨fun hx => ?_, ?_, ?_⟩
  · rw [writeWithFlag_reg, if_neg hx, if_pos rfl, hv]
  · rw [writeWithFlag_reg, if_pos rfl, hn]
  · exact (frame_setReg result (by simp)).trans (frame_setReg flag (by simp))

theorem carryFlag_toNat (a b : Byte) : (carryFlag a b).toNat = if 255 < a.toNat + b.toNat then 1 else 0 := by
  simp only [carryFlag, flagOf_toNat, decide_eq_true_eq]

theorem notBorrowFlag_toNat (a b : Byte) : (notBorrowFlag a b).toNat = if b.toNat ≤ a.toNat then 1 else 0 := by
  simp only [notBorrowFlag, flagOf_toNat, decide_eq_true_eq]

/-- R94: the bit a right shift moves out is the remainder by 2. -/
theorem lowBitFlag_toNat (b : Byte) : (lowBitFlag b).toNat = b.toNat % 2 := by
  rw [lowBitFlag, flagOf_toNat, BitVec.getLsbD, Nat.testBit_zero]
  simp only [decide_eq_true_eq]
  split <;> omega

/-- R96: the bit a left shift moves out is the quotient by 128. -/
theorem highBitFlag_toNat (b : Byte) : (highBitFlag b).toNat = b.toNat / 128 := by
  have hb : b.toNat < 256 := b.isLt
  rw [highBitFlag, flagOf_toNat, BitVec.getLsbD, Nat.testBit_eq_decide_div_mod_eq]
  simp only [decide_eq_true_eq]
  split <;> omega

/-- R93, R95: the difference of two bytes is their exact difference modulo 256. -/
theorem sub_toNat_intCast (a b : Byte) : ((a - b).toNat : Int) = ((a.toNat : Int) - b.toNat) % 256 := by
  have hb : b.toNat < 256 := b.isLt
  rw [BitVec.toNat_sub]
  omega

theorem shiftRight_one_toNat (b : Byte) : (b >>> 1).toNat = b.toNat / 2 := by
  rw [BitVec.toNat_ushiftRight, Nat.shiftRight_one]

theorem shiftLeft_one_toNat (b : Byte) : (b <<< 1).toNat = 2 * b.toNat % 256 := by
  rw [BitVec.toNat_shiftLeft, Nat.shiftLeft_eq, pow_one, Nat.mul_comm]

/-- Settles O27, by the exact values of the sum and the carry. -/
theorem addSetsCarry : Obligations.AddSetsCarry := fun x y _ =>
  ⟨decode_encode (.addReg x y), writeWithFlag_answers BitVec.toNat (BitVec.toNat_add _ _) (carryFlag_toNat _ _)⟩

/-- Settles O28: SUBN is SUB with its operands exchanged. -/
theorem subtractionsSetNotBorrow : Obligations.SubtractionsSetNotBorrow := fun x y _ =>
  ⟨decode_encode (.sub x y), decode_encode (.subn x y),
    writeWithFlag_answers (fun b => (b.toNat : Int)) (sub_toNat_intCast _ _) (notBorrowFlag_toNat _ _),
    writeWithFlag_answers (fun b => (b.toNat : Int)) (sub_toNat_intCast _ _) (notBorrowFlag_toNat _ _)⟩

/-- Settles O29, by the exact values of VY shifted and of the bit shifted out. -/
theorem shiftsTakeVY : Obligations.ShiftsTakeVY := fun x y _ =>
  ⟨decode_encode (.shr x y), decode_encode (.shl x y),
    writeWithFlag_answers BitVec.toNat (shiftRight_one_toNat _) (lowBitFlag_toNat _),
    writeWithFlag_answers BitVec.toNat (shiftLeft_one_toNat _) (highBitFlag_toNat _)⟩

/-! ## The random byte -/

/-- Settles O30: a bit that NN clears is clear in the byte AND NN, whatever the byte is. -/
theorem randomByteIsMasked : Obligations.RandomByteIsMasked := by
  intro x nn s
  have hreg : ((s.setReg x (Config.randByte s.draws &&& nn)).setDraws (s.draws + 1)).reg x =
      Config.randByte s.draws &&& nn := State.setReg_reg_same s x _
  refine ⟨decode_encode (.rnd x nn), answers_next ⟨hreg, rfl, fun k hk => ?_, ?_⟩⟩
  · rw [hreg, BitVec.getLsbD_and, hk, Bool.and_false]
  · exact (frame_setReg _ (by simp)).trans (frame_setDraws _ (by simp))

end Sys2Proof.Machine
end

section
/-! The address register and memory (spec R102 to R106): ADD I and LD F write I alone; FX33, FX55 and FX65 access the
block at I, or raise with nothing else done. -/

namespace Sys2Proof.Machine

variable {s : State}

/-! ## I alone -/

theorem frameList_setI (a : Word) : FrameList [.index] s (s.setI a) :=
  frame_setI a (List.mem_singleton.mpr rfl)

/-- What every instruction that writes `a` to I and nothing else answers, `n` being the value of `a`. -/
theorem setI_answers {a : Word} {n : Nat} (ha : a.toNat = n) :
    Answers (fun t => t.i.toNat = n ∧ FrameList [.index] s t) (.next (s.setI a)) :=
  answers_next ⟨ha, frameList_setI a⟩

/-- Settles O32: the sum of two 16-bit numbers is their exact sum modulo 2^16. -/
theorem addIndexWrapsAtSixteenBits : Obligations.AddIndexWrapsAtSixteenBits := fun x _ =>
  ⟨decode_encode (.addI x), setI_answers (by rw [BitVec.toNat_add, wordOfByte_toNat])⟩

/-- R103: the address of the glyph of the largest byte is less than 2^16, so it does not wrap. -/
theorem glyphAddr_toNat (b : Byte) : (glyphAddr b).toNat = 0x100 + 5 * b.toNat := by
  have hb : b.toNat < 0x100 := b.isLt
  rw [glyphAddr, BitVec.toNat_ofNat, fontBase_eq]
  omega

/-- Settles O33: the glyph's address does not wrap, whatever VX is. -/
theorem fontAddressOfWholeRegister : Obligations.FontAddressOfWholeRegister := fun x _ =>
  ⟨decode_encode (.ldF x), setI_answers (glyphAddr_toNat _)⟩

/-! ## The block at I -/

/-- R44: the addresses of a block of n + 1 bytes at I are the effective addresses I + 0 to I + n. -/
theorem exists_byte_eq_effAddr {a n : Nat} (hlo : effAddr s 0 ≤ a) (hhi : a < effAddr s 0 + (n + 1)) :
    ∃ k, k ≤ n ∧ Piece.byte a = .byte (effAddr s k) := by
  obtain ⟨k, rfl⟩ := Nat.exists_eq_add_of_le hlo
  exact ⟨k, Nat.le_of_lt_succ (Nat.lt_of_add_lt_add_left hhi), rfl⟩

/-- R105, R106, D28: FX55 and FX65 advance I by X + 1 modulo 2^16. -/
theorem advancedI_toNat (s : State) (x : Reg) : (advancedI s x).toNat = (s.i.toNat + x.toNat + 1) % 65536 := by
  have hx : (x.setWidth 16).toNat = x.toNat := BitVec.toNat_setWidth_of_le (by decide)
  rw [advancedI, BitVec.toNat_add, BitVec.toNat_add, hx, Nat.mod_add_mod]
  rfl

/-! ## FX33 -/

/-- Bytes written at I, in bounds, read back at their effective addresses. -/
theorem byte_writeBytes_effAddr {bs : List Byte} (hbs : effAddr s 0 + bs.length ≤ 4096) (k : Nat)
    (hk : k < bs.length) :
    (s.setMem (Memory.writeBytes s.cfg.font s.mem (effAddr s 0) bs)).byte (effAddr s k) = bs[k] := by
  have hin : effAddr s 0 ≤ effAddr s k ∧ effAddr s k < effAddr s 0 + bs.length :=
    ⟨Nat.le_add_right _ _, Nat.add_lt_add_left hk _⟩
  have hidx : effAddr s k - effAddr s 0 = k := Nat.add_sub_cancel_left ..
  refine (Memory.read_writeBytes _ _ _ _ _ hbs).trans ?_
  rw [if_pos hin, hidx, List.getD_eq_getElem _ _ hk]

/-- A number that is at most a byte's value fits in a byte. -/
theorem toNat_ofNat_of_le_toNat {n : Nat} {b : Byte} (h : n ≤ b.toNat) : (BitVec.ofNat 8 n).toNat = n :=
  (BitVec.toNat_ofNat n 8).trans (Nat.mod_eq_of_lt (Nat.lt_of_le_of_lt h b.isLt))

/-- Settles O34: each digit is at most VX, so it fits in the byte written at its effective address. -/
theorem decimalDigitsAreStored : Obligations.DecimalDigitsAreStored := by
  refine fun x s => ⟨decode_encode (.ldB x), fun h => ?_,
    fun h => ⟨_, exec_ldB_fault x s h, rfl, frameList_run_setRun s _⟩⟩
  have hbyte := byte_writeBytes_effAddr (s := s) (bs := decimalDigits (s.reg x)) h
  refine ⟨_, exec_ldB_ok x s h, ?_, ?_, ?_, frame_writeBytes h fun _ => exists_byte_eq_effAddr⟩
  · rw [hbyte 0 (by decide : 0 < 3)]
    exact toNat_ofNat_of_le_toNat (Nat.div_le_self _ _)
  · rw [hbyte 1 (by decide : 1 < 3)]
    exact toNat_ofNat_of_le_toNat ((Nat.mod_le _ _).trans (Nat.div_le_self _ _))
  · rw [hbyte 2 (by decide : 2 < 3)]
    exact toNat_ofNat_of_le_toNat (Nat.mod_le _ _)

/-! ## FX55 and FX65 -/

@[simp] theorem storeRegs_reg (n : Nat) (s : State) (r : Reg) : (storeRegs n s).reg r = s.reg r := by
  obtain ⟨m, hm⟩ := storeRegs_eq_setMem n s
  rw [hm, State.setMem_reg]

/-- Settles O35: the loop stores V0..VX at their effective addresses, and the advance of I changes no byte. -/
theorem registersAreStored : Obligations.RegistersAreStored := by
  refine fun x s => ⟨decode_encode (.ldMemStore x),
    fun h => ⟨_, exec_ldMemStore_ok x s h, fun r hr => ?_, advancedI_toNat s x, ?_⟩,
    fun h => ⟨_, exec_ldMemStore_fault x s h, rfl, frameList_run_setRun s _⟩⟩
  · exact storeRegs_byte_effAddr h (Nat.lt_succ_of_le hr)
  · exact (frame_storeRegs h fun _ hlo hhi => .inr (exists_byte_eq_effAddr hlo hhi)).trans (frame_setI _ (.inl rfl))

/-- Settles O36: the loop loads V0..VX from their effective addresses, and the advance of I changes no register. -/
theorem registersAreLoaded : Obligations.RegistersAreLoaded := by
  refine fun x s => ⟨decode_encode (.ldMemLoad x),
    fun h => ⟨_, exec_ldMemLoad_ok x s h, fun r hr => ?_, advancedI_toNat s x, ?_⟩,
    fun h => ⟨_, exec_ldMemLoad_fault x s h, rfl, frameList_run_setRun s _⟩⟩
  · exact (loadRegs_reg _ x.isLt s r).trans (if_pos (Nat.lt_succ_of_le hr))
  · exact (frame_loadRegs x.isLt fun r hr => .inr ⟨r, Nat.le_of_lt_succ hr, rfl⟩).trans (frame_setI _ (.inl rfl))

/-- Settles O37: with I set back, FX65 loads each of V0..VX from the address where FX55 stored it, and neither writes a
register above VX. -/
theorem storeThenLoadRestoresRegisters : Obligations.StoreThenLoadRestoresRegisters := by
  intro x s h
  refine ⟨_, _, exec_ldMemStore_ok x s h, exec_ldMemLoad_ok x _ h, fun r => ?_⟩
  refine (loadRegs_reg _ x.isLt _ r).trans ?_
  split
  · next hr => exact storeRegs_byte_effAddr h hr
  · exact storeRegs_reg _ s r

end Sys2Proof.Machine
end

section
/-! The display (spec R108 to R111): CLS writes every pixel, the read-out is the framebuffer in row-major order, and DRW
toggles the pixels of its sprite and notes whether a set one was cleared. -/

namespace Sys2Proof.Machine

variable {s : State}

/-- Settles O39: the framebuffer written is the one with no pixel set. -/
theorem clearScreen : Obligations.ClearScreen :=
  ⟨decode_encode .cls, fun _ => answers_next ⟨pixel_clear, frame_setFb _ fun px py => ⟨px, py, rfl⟩⟩⟩

/-- Settles O48: the read-out is the framebuffer, and a pixel's row-major index lies inside it. -/
theorem framebufferReadOut : Obligations.FramebufferReadOut := fun _ =>
  ⟨Vector.length_toList, fun px py => Vector.getElem?_eq_getElem (pixelIndex_lt px py)⟩

/-! ## Drawing, in terms of pixels before and after -/

section Rounds

variable {lit : Fin 64 → Fin 32 → Prop} {p q : Framebuffer × Bool}

/-- R109: the pixels a round of drawing clears are the set ones among those it lights. -/
theorem Draws.lit_and_set_iff_cleared (h : Draws lit p q) (px : Fin 64) (py : Fin 32) :
    lit px py ∧ Framebuffer.pixel p.1 px py = true ↔
      Framebuffer.pixel p.1 px py = true ∧ Framebuffer.pixel q.1 px py = false := by
  by_cases hl : lit px py
  · simp [hl, h.toggled px py hl]
  · simp [hl, h.kept px py hl]

/-- R109: a round that starts with no collision noted ends with one noted exactly if a set pixel was cleared. -/
theorem Draws.collision_iff_cleared (h : Draws lit p q) (hp : p.2 = false) :
    q.2 = true ↔ ∃ px py, Framebuffer.pixel p.1 px py = true ∧ Framebuffer.pixel q.1 px py = false := by
  simp only [h.collision, h.lit_and_set_iff_cleared, hp, Bool.false_eq_true, false_or]

/-- L1: two rounds on the same pixels, whatever each notes, restore the framebuffer. -/
theorem Draws.pixel_twice {b : Bool} {r : Framebuffer × Bool} (h : Draws lit p q) (h' : Draws lit (q.1, b) r)
    (px : Fin 64) (py : Fin 32) : Framebuffer.pixel r.1 px py = Framebuffer.pixel p.1 px py := by
  by_cases hl : lit px py
  · rw [h'.toggled px py hl, h.toggled px py hl, Bool.not_not]
  · rw [h'.kept px py hl, h.kept px py hl]

end Rounds

/-! ## The state DRW leaves -/

variable {x y : Reg} {n : Nibble} {d : Framebuffer × Bool}

/-- The pixels that DRW lights: those of the sprite of N rows at I, at column VX and row VY (R109, R110). -/
def DrwLights (x y : Reg) (n : Nibble) (s : State) : Fin 64 → Fin 32 → Prop :=
  SpriteLights (s.reg x).toNat (s.reg y).toNat n.toNat fun row => s.byte (effAddr s row)

/-- R110, D11: the lit pixels, each wrapped by itself. -/
theorem drwLights_iff {px : Fin 64} {py : Fin 32} :
    DrwLights x y n s px py ↔
      ∃ row col, row < n.toNat ∧ col < 8 ∧ (s.byte (effAddr s row)).getLsbD (7 - col) = true ∧
        px.val = ((s.reg x).toNat + col) % 64 ∧ py.val = ((s.reg y).toNat + row) % 32 := by
  simp only [DrwLights, SpriteLights, RowLights, Fin.ext_iff, Fin.val_ofNat, exists_and_left]

/-- What DRW in bounds makes of a state, by what it drew: the framebuffer, and the collision in VF (R109, D10). -/
def State.setDrawn (s : State) (d : Framebuffer × Bool) : State :=
  ((s.setReg flagReg 0).setFb d.1).setReg flagReg (flagOf d.2)

theorem State.setDrawn_reg_flag (s : State) (d : Framebuffer × Bool) :
    (s.setDrawn d).reg flagReg = flagOf d.2 := State.setReg_reg_same _ _ _

theorem State.setDrawn_reg_ne {r : Reg} (d : Framebuffer × Bool) (hr : r ≠ flagReg) :
    (s.setDrawn d).reg r = s.reg r := by
  rw [State.setDrawn, State.setReg_reg_ne _ _ hr, State.setFb_reg, State.setReg_reg_ne _ _ hr]

theorem frame_setDrawn {T : Piece → Prop} (hflag : T (.reg flagReg)) (hpixel : ∀ px py, T (.pixel px py)) :
    Frame T s (s.setDrawn d) :=
  ((frame_setReg _ hflag).trans (frame_setFb _ hpixel)).trans (frame_setReg _ hflag)

/-- A draw moves neither I nor memory, and of the registers VF alone, so with X and Y not F the same instruction lights
the same pixels again. -/
theorem drwLights_setDrawn (d : Framebuffer × Bool) (hx : x ≠ flagReg) (hy : y ≠ flagReg) :
    DrwLights x y n (s.setDrawn d) = DrwLights x y n s := by
  rw [DrwLights, State.setDrawn_reg_ne d hx, State.setDrawn_reg_ne d hy]
  rfl

/-- R109: DRW in bounds draws on the pixels it lights, from no collision: a sprite has at most 15 rows. -/
theorem exec_drw_draws (hb : n.toNat = 0 ∨ effAddr s n.toNat ≤ 4096) :
    ∃ d, Draws (DrwLights x y n s) (s.fb, false) d ∧ exec (.drw x y n) s = .next (s.setDrawn d) := by
  obtain ⟨d, rfl, he⟩ := exec_drw_ok x y n s hb
  have hrows : n.toNat < 16 := n.isLt
  exact ⟨_, drawSprite_draws _ _ _ (by omega) _ _, he⟩

/-- Settles O40: the drawn pixels and the collision are those of the round that DRW draws. -/
theorem drawTogglesSpritePixels : Obligations.DrawTogglesSpritePixels := by
  refine fun x y n s => ⟨decode_encode (.drw x y n), fun hb => ?_,
    fun h0 hn => ⟨_, exec_drw_fault x y n s h0 hn, rfl, frameList_run_setRun s _⟩⟩
  obtain ⟨d, hd, he⟩ := exec_drw_draws (x := x) (y := y) hb
  have hcleared : d.2 = true ↔ ∃ px py, s.pixel px py = true ∧ (s.setDrawn d).pixel px py = false :=
    hd.collision_iff_cleared rfl
  refine ⟨_, he, fun px py => ⟨fun hl => hd.toggled px py (drwLights_iff.mpr hl),
    fun hl => hd.kept px py (mt drwLights_iff.mp hl)⟩, fun hc => ?_, fun hc => ?_,
    frame_setDrawn (.inl rfl) fun px py => .inr ⟨px, py, rfl⟩⟩
  · rw [State.setDrawn_reg_flag, hcleared.mpr hc]
    rfl
  · rw [State.setDrawn_reg_flag, Bool.eq_false_iff.mpr (mt hcleared.mp hc)]
    rfl

/-- Settles O41: the second draw lights the pixels of the first, so each is toggled twice; a pixel that the first set on
a clear screen is cleared by the second, which is its collision. -/
theorem drawTwiceRestoresFramebuffer : Obligations.DrawTwiceRestoresFramebuffer := by
  intro x y n s hx hy hb
  obtain ⟨d, hd, he⟩ := exec_drw_draws (x := x) (y := y) hb
  obtain ⟨d', hd', he'⟩ := exec_drw_draws (x := x) (y := y) (s := s.setDrawn d) hb
  have hcleared := hd'.collision_iff_cleared rfl
  rw [drwLights_setDrawn d hx hy] at hd'
  have hrestored : ∀ px py, ((s.setDrawn d).setDrawn d').pixel px py = s.pixel px py := hd.pixel_twice hd'
  refine ⟨_, _, he, he', hrestored, fun hclear ⟨px, py, hset⟩ => ?_⟩
  rw [State.setDrawn_reg_flag, hcleared.mpr ⟨px, py, hset, (hrestored px py).trans (hclear px py)⟩]
  rfl

end Sys2Proof.Machine
end

section
/-! Timers and keypad (spec R112 to R118): the two skips on a key, FX0A, which takes the lowest pressed key or waits,
and the moves between VX and the timers. -/

namespace Sys2Proof.Machine

variable {x : Reg} {s : State} {k : BitVec 4}

/-! ## The lowest pressed key -/

theorem mem_allKeys (k : BitVec 4) : k ∈ allKeys :=
  List.mem_map.mpr ⟨k.toNat, List.mem_range.mpr k.isLt, BitVec.ofNat_toNat 4 k⟩

/-- R115: the search fails exactly when no key is pressed, for it visits every key. -/
theorem lowestKey_eq_none_iff : lowestKey s = none ↔ ∀ k, s.keyDown k = false := by
  simp [lowestKey, mem_allKeys]

/-- R115, D12: the search visits the keys in rising order, so it finds a pressed key below which none is. -/
theorem lowestKey_eq_some (hk : s.keyDown k = true)
    (hlow : ∀ j : BitVec 4, j.toNat < k.toNat → s.keyDown j = false) :
    lowestKey s = some k := by
  have hfind : (List.range 16).find? (s.keyDown ∘ BitVec.ofNat 4) = some k.toNat := by
    refine List.find?_range_eq_some.mpr ⟨?_, List.mem_range.mpr k.isLt, fun j hj => ?_⟩
    · simpa using hk
    · have hj16 : j < 16 := hj.trans k.isLt
      have hdown : s.keyDown (BitVec.ofNat 4 j) = false :=
        hlow _ (by rwa [BitVec.toNat_ofNat, Nat.mod_eq_of_lt hj16])
      simp [hdown]
  rw [lowestKey, allKeys, List.find?_map, hfind, Option.map_some, BitVec.ofNat_toNat, BitVec.setWidth_eq]

/-! ## FX0A -/

theorem byteOfKey_toNat (k : BitVec 4) : (byteOfKey k).toNat = k.toNat :=
  BitVec.toNat_setWidth_of_le (by decide)

/-- Settles O43, by whether the search for the lowest pressed key succeeds. -/
theorem keyWait : Obligations.KeyWait := by
  refine fun x s => ⟨decode_encode (.ldVxK x), fun k hk hlow => ?_, fun hnone => ?_⟩
  · refine ⟨_, exec_ldVxK_key x (lowestKey_eq_some hk hlow), ?_, frameList_setReg _⟩
    rw [State.setReg_reg_same, byteOfKey_toNat]
  · exact ⟨_, exec_ldVxK_wait x (lowestKey_eq_none_iff.mpr hnone), rfl, frameList_setPc _⟩

/-- R63, R115: putting the pc back undoes the fetch, but for the word it traced. -/
theorem fetched_setPc_back (s : State) :
    (fetched s).setPc ((fetched s).pc - 2) = s.setTrace (pushTrace s.trace (fetchWord s)) :=
  congrArg (fetched s).setPc (insnAddr_fetched s)

/-- Settles O44: the wait puts the pc back to where the fetch found it, so what the fetch traced is all that changes. -/
theorem keyWaitStepRepeats : Obligations.KeyWaitStepRepeats := by
  intro x s hr hp hw hnone
  have hd : decode (fetchWord s) = .ok (.ldVxK x) := hw ▸ decode_encode (.ldVxK x)
  have hwait : lowestKey (fetched s) = none := lowestKey_eq_none_iff.mpr hnone
  have hstep : step s = .next (s.setTrace (pushTrace s.trace (fetchWord s))) := by
    rw [step_decoded hr hp hd, exec_ldVxK_wait x hwait, fetched_setPc_back]
  refine ⟨_, hstep, frame_setTrace _ (List.mem_singleton.mpr rfl), ?_⟩
  rw [outcomeOut, State.setTrace_run, hr]

/-! ## The skips on a key -/

theorem setWidth_eq_of_toNat_eq {b : Byte} (h : b.toNat = k.toNat) : b.setWidth 4 = k :=
  BitVec.eq_of_toNat_eq (by rw [BitVec.toNat_setWidth, h, Nat.mod_eq_of_lt k.isLt])

theorem exec_skp_key (h : (s.reg x).toNat = k.toNat) : exec (.skp x) s = .next (skipIf (s.keyDown k) s) := by
  rw [exec_skp_ok (h ▸ Nat.le_of_lt_succ k.isLt), setWidth_eq_of_toNat_eq h]

theorem exec_sknp_key (h : (s.reg x).toNat = k.toNat) : exec (.sknp x) s = .next (skipIf (!s.keyDown k) s) := by
  rw [exec_sknp_ok (h ▸ Nat.le_of_lt_succ k.isLt), setWidth_eq_of_toNat_eq h]

/-- Settles O42: up to 15 the register names the key that is tested, and above it names none. -/
theorem keySkips : Obligations.KeySkips := by
  refine fun x s => ⟨decode_encode (.skp x), decode_encode (.sknp x), fun k hk => ⟨?_, ?_⟩, fun hout => ⟨?_, ?_⟩⟩
  · rw [exec_skp_key hk]
    exact skipIf_answers Iff.rfl
  · rw [exec_sknp_key hk]
    have hpc : (skipIf (!s.keyDown k) s).pc = if s.keyDown k then s.pc else s.pc + 2 := by
      rw [skipIf_pc]
      cases s.keyDown k <;> rfl
    exact answers_next ⟨hpc, frame_skipIf _ (List.mem_singleton.mpr rfl)⟩
  · exact ⟨_, exec_skp_fault hout, rfl, frameList_run_setRun s _⟩
  · exact ⟨_, exec_sknp_fault hout, rfl, frameList_run_setRun s _⟩

/-! ## The timer registers -/

/-- Settles O45: each move writes one register with the other's value, and `sound_on` is the test that ST is not 0. -/
theorem timerRegisterMoves : Obligations.TimerRegisterMoves := fun x s =>
  ⟨decode_encode (.ldVxDT x), decode_encode (.ldDTVx x), decode_encode (.ldSTVx x), setReg_answers s.dt,
    answers_next ⟨rfl, frame_setDt _ (List.mem_singleton.mpr rfl)⟩,
    answers_next ⟨rfl, bne_iff_ne, frame_setSt _ (List.mem_singleton.mpr rfl)⟩⟩

end Sys2Proof.Machine
end

section
/-! The host's moves keep the invariant and the parameters, and so does every run of them (spec R34, R135, R137, R143,
R144); and what a tick does to the timers (spec R32, R135). -/

namespace Sys2Proof.Machine

variable {s : State}

/-- A reset keeps only the parameters of the state before it, so it needs only their part of the invariant. -/
theorem State.Inv.hostReset (h : s.Inv) : (hostReset s).Inv := (invariantAtReset s.cfg h.config).setDraws s.draws

theorem State.Inv.tick (h : s.Inv) : (tick s).Inv := (h.setDt _).setSt _

theorem State.Inv.writeKeys (h : s.Inv) (keys : Vector Bool 16) : (writeKeys keys s).Inv := { h with }

theorem State.Inv.load (h : s.Inv) {bytes : List Byte} {t : State} (hl : load bytes s = .ok t) : t.Inv := by
  obtain ⟨-, rfl⟩ := load_eq_ok hl
  exact (h.setMem (Memory.wf_writeBytes _ _ h.memory)).setPc (by decide)

theorem load_cfg {bytes : List Byte} {t : State} (hl : load bytes s = .ok t) : t.cfg = s.cfg := by
  obtain ⟨-, rfl⟩ := load_eq_ok hl
  rfl

/-- No instruction writes the parameters, so no step does. -/
theorem step_cfg {t : State} (hs : step s = .next t) : t.cfg = s.cfg :=
  step_frame hs .config fun ⟨_, _, hw⟩ => hw

/-- The parameters are as at construction, whatever moves come after it (log entry 5). -/
theorem Reached.cfg_eq {c : Config} {ph : LoadPhase} (h : Reached c ph s) : s.cfg = c := by
  induction h with
  | construct => rfl
  | load _ _ hl ih => exact (load_cfg hl).trans ih
  | step _ _ hs ih => exact (step_cfg hs).trans ih
  | reset _ ih | tick _ ih | keys _ _ ih => exact ih

theorem Reached.inv {c : Config} {ph : LoadPhase} (hc : c.WellFormed) (h : Reached c ph s) : s.Inv := by
  induction h with
  | construct => exact invariantAtReset c hc
  | reset _ ih => exact ih.hostReset
  | load _ _ hl ih => exact ih.load hl
  | step _ _ hs ih => exact stepKeepsInvariant _ _ ih hs
  | tick _ ih => exact ih.tick
  | keys k _ ih => exact ih.writeKeys k

/-- Settles O55, by one lemma for each move of the host and an induction over the moves that reach a state. -/
theorem hostMovesKeepInvariant : Obligations.HostMovesKeepInvariant :=
  ⟨fun _ h => ⟨h.hostReset, h.tick, h.writeKeys, fun _ _ => h.load⟩, fun _ _ _ hc hr => ⟨hr.inv hc, hr.cfg_eq⟩⟩

/-! ## The tick -/

/-- R32: `sound_on` is the test that ST is not 0. -/
theorem soundOn_iff (s : State) : soundOn s = true ↔ 0 < s.st.toNat :=
  bne_iff_ne.trans (BitVec.toNat_ne.trans Nat.pos_iff_ne_zero.symm)

theorem soundOn_tick (s : State) : soundOn (tick s) = true ↔ 2 ≤ s.st.toNat := by
  rw [soundOn_iff, tick_eq, State.setSt_st, tickTimer_toNat]
  omega

/-- Settles O46: each timer is one less or stays 0, and the two writes of a tick frame everything else. -/
theorem tickMovesBothTimers : Obligations.TickMovesBothTimers := fun s =>
  ⟨tickTimer_toNat s.dt, tickTimer_toNat s.st, soundOn_tick s,
    (frame_setDt _ List.mem_cons_self).trans (frame_setSt _ (List.mem_cons_of_mem _ List.mem_cons_self))⟩

end Sys2Proof.Machine
end

section
/-! Loading an image, the reset input, and the first step where nothing is loaded (spec R76, R126, R143 to R145,
R147). -/

namespace Sys2Proof.Machine

/-! ## Load -/

/-- An image written inside memory reads back byte for byte. -/
theorem read_writeBytes_add (font : Vector Byte 80) (m : Memory) {a j : Nat} {bs : List Byte}
    (ha : a + bs.length ≤ 4096) (hj : j < bs.length) :
    Memory.read font (Memory.writeBytes font m a bs) (a + j) = bs[j] := by
  have hin : a ≤ a + j ∧ a + j < a + bs.length := ⟨Nat.le_add_right a j, Nat.add_lt_add_left hj a⟩
  rw [Memory.read_writeBytes font bs m a _ ha, if_pos hin, Nat.add_sub_cancel_left, List.getD_eq_getElem _ _ hj]

/-- R145: a longer image than fits makes load answer its error. -/
theorem load_error {bytes : List Byte} (s : State) (h : 3584 < bytes.length) :
    load bytes s = .error (.tooLong bytes.length) :=
  if_neg (Nat.not_le_of_lt h)

/-- Settles O49: an image that fits ends inside memory, so its bytes read back, and the two writes of a load frame
everything else. -/
theorem loadCopiesOrFails : Obligations.LoadCopiesOrFails := by
  refine fun bytes s => ⟨fun h => ?_, load_error s⟩
  have hend : 0x200 + bytes.length ≤ 4096 := Nat.add_le_add_left h 0x200
  refine ⟨_, load_ok s h, rfl, fun j hj => read_writeBytes_add _ _ hend hj,
    (frame_writeBytes hend fun a hlo hhi => ?_).trans (frame_setPc _ (.inl rfl))⟩
  obtain ⟨j, rfl⟩ := Nat.exists_eq_add_of_le hlo
  exact .inr ⟨j, Nat.lt_of_add_lt_add_left hhi, rfl⟩

/-! ## Reset -/

/-- Settles O51: the reset input is construction with the number of the next draw replaced. -/
theorem resetInputConstructs : Obligations.ResetInputConstructs := fun s =>
  ⟨rfl, frame_setDraws s.draws (List.mem_singleton.mpr rfl), rfl⟩

/-- D16: the pc of construction is PROGRAM_BASE. -/
theorem resetWith_pc_toNat (c : Config) : (State.resetWith c).pc.toNat = 0x200 := rfl

/-- R147: nothing is listed where a program would stand, so the word at the pc of construction is 0000. -/
theorem fetchWord_resetWith (c : Config) : fetchWord (State.resetWith c) = 0x0000 := by
  have hzero {a : Nat} (ha : 0x150 ≤ a) : (State.resetWith c).byte a = 0 := resetByte_high c.font ha
  rw [fetchWord, resetWith_pc_toNat, hzero (by decide), hzero (by decide)]
  rfl

/-- Settles O52: the word at 0x200 is HALT's, so the step is the fetch and the halt. -/
theorem firstStepWithoutProgramHalts : Obligations.FirstStepWithoutProgramHalts := by
  intro c
  have hword := fetchWord_resetWith c
  have hdecode : decode (fetchWord (State.resetWith c)) = .ok .halt := decode_eq_halt_iff.mpr hword
  have hpc : (State.resetWith c).pc.toNat + 1 < 4096 := by rw [resetWith_pc_toNat]; decide
  have hstep := (step_decoded rfl hpc hdecode).trans (exec_halt _)
  have htrace : (fetched (State.resetWith c)).trace = [0x0000] := by
    rw [fetched_trace, hword]
    rfl
  exact ⟨_, hstep, rfl, rfl, htrace, (frame_fetched (by simp) (by simp)).trans (frame_setRun _ (by simp))⟩

end Sys2Proof.Machine
end

section
/-! The step of a core whose run has ended (spec R60), and LD I (spec R101). -/

namespace Sys2Proof.Machine

/-- Settles O13: the step reads the run state first, and answers a terminal one without a fetch. -/
theorem terminalCoreDoesNotStep : Obligations.TerminalCoreDoesNotStep := fun _ =>
  ⟨step_halted, fun _ => step_faulted⟩

/-- Settles O31: widened to 16 bits, the address keeps its value. -/
theorem loadIndex : Obligations.LoadIndex := fun nnn _ =>
  ⟨decode_encode (.ldI nnn), setI_answers (addrOf_toNat nnn)⟩

end Sys2Proof.Machine
end
